-- ==== Sys2Proof/Word.lean ====
section
/-! DEFINITION. The widths the spec gives its values (00_scope.md R7, R8; 30_encoding.md R48). All values are
unsigned; no value of this block is signed (R8). -/

namespace Sys2Proof

/-- A byte, 0 to 255 (R8). -/
abbrev Byte := BitVec 8

/-- A 16-bit register or field: CNT, RX_CK, CK_CALC and the checksum (R9). -/
abbrev Half := BitVec 16

/-- A 10-bit byte address of the host register space, 0x000 to 0x3FF (R34). -/
abbrev Addr := BitVec 10

/-- A 19-bit host bus transaction word (R48). -/
abbrev BusWord := BitVec 19

end Sys2Proof
end

