-- ==== Sys2Proof/Syntax.lean ====
section
/-! DEFINITION. The instructions: one constructor per row of spec/opcode_table.json. The PFCV executes no instruction
stream (10_state.md R13); its instruction is one host bus transaction (30_encoding.md R48). -/

namespace Sys2Proof

/-- One host bus transaction. A HOST_WR to CMD (0x100) is one of the command rows, which refine the row HOST_WR
(opcode_table.json; log 6). -/
inductive Instr where
  /-- HOST_RD (R37): W = 0. The word's DATA field is ignored (R48, V6) and is no part of the instruction. -/
  | hostRd (addr : Addr)
  /-- HOST_WR (R38): W = 1, at any address but CMD when well-formed. -/
  | hostWr (addr : Addr) (data : Byte)
  /-- ENCODE (R61): CODE 0x01 written to CMD. -/
  | encode
  /-- DECODE (R64): CODE 0x02 written to CMD. -/
  | decode
  /-- VERIFY (R70): CODE 0x03 written to CMD. -/
  | verify
  /-- FRAME_CK (R72): CODE 0x04 written to CMD. -/
  | frameCk
  /-- CLEAR (R76): CODE 0x05 written to CMD. -/
  | clear
  /-- ILLEGAL_CMD (R77): a reserved CODE, 0x00 or 0x06 to 0xFF, written to CMD. -/
  | illegalCmd (code : Byte)
  deriving DecidableEq, Repr

/-- What a command byte asks for (R50). -/
inductive Command where
  | encode | decode | verify | frameCk | clear
  /-- Every code R50 reserves (R51, R77). -/
  | illegal
  deriving DecidableEq, Repr

end Sys2Proof
end

