-- ==== Sys2Proof/WellFormed.lean ====
section
/-! DEFINITION. Which values of `Instr` stand for a row of the opcode table: the command rows refine HOST_WR at CMD,
and the codes of R50 are no ILLEGAL_CMD (30_encoding.md R48 to R51; log 6). -/

namespace Sys2Proof

/-- A command code R50 reserves: 0x00, or 0x06 to 0xFF (R51). -/
abbrev ReservedCode (code : Byte) : Prop := code.toNat = 0 ∨ 6 ≤ code.toNat

/-- The instruction is one the decoder can give. Every operand value is allowed but the two refinements say which row
a CMD write belongs to. -/
abbrev Instr.WellFormed : Instr → Prop
  | .hostRd _ => True
  | .hostWr addr _ => addr ≠ 0x100#10
  | .encode => True
  | .decode => True
  | .verify => True
  | .frameCk => True
  | .clear => True
  | .illegalCmd code => ReservedCode code

end Sys2Proof
end

