-- ==== Sys2Proof/Decode.lean ====
section
/-! DEFINITION. Decoding and encoding of the 19-bit bus word and of the command byte (30_encoding.md R48 to R51). -/

namespace Sys2Proof

/-- W, bit [18] of a bus word: 0 = HOST_RD, 1 = HOST_WR (R48). -/
def wordWrites (w : BusWord) : Bool := w.getLsbD 18

/-- ADDR, bits [17:8] of a bus word (R48). -/
def wordAddr (w : BusWord) : Addr := w.extractLsb' 8 10

/-- DATA, bits [7:0] of a bus word (R48). -/
def wordData (w : BusWord) : Byte := w.extractLsb' 0 8

/-- A bus word from its fields, `W * 2^18 + ADDR * 2^8 + DATA` (R48). -/
def packWord (writes : Bool) (addr : Addr) (data : Byte) : BusWord :=
  BitVec.ofBool writes ++ addr ++ data

/-- The address of CMD (R15, R35), at which a HOST_WR is a command (R49). -/
abbrev cmdAddr : Addr := 0x100#10

/-- The opcode map of the command byte: all 8 bits of CODE are compared (R50). -/
def commandOf (code : Byte) : Command :=
  if code = 0x01#8 then .encode
  else if code = 0x02#8 then .decode
  else if code = 0x03#8 then .verify
  else if code = 0x04#8 then .frameCk
  else if code = 0x05#8 then .clear
  else .illegal

/-- The command row of a CMD write of `code` (R49, R50). -/
def decodeCommand (code : Byte) : Instr :=
  match commandOf code with
  | .encode => .encode
  | .decode => .decode
  | .verify => .verify
  | .frameCk => .frameCk
  | .clear => .clear
  | .illegal => .illegalCmd code

/-- The decoder of bus words. It is total and no bit pattern is illegal (R48). -/
def decodeWord (w : BusWord) : Instr :=
  if wordWrites w then
    if wordAddr w = cmdAddr then decodeCommand (wordData w) else .hostWr (wordAddr w) (wordData w)
  else .hostRd (wordAddr w)

/-- The number `w` of `nbits` bits as a bus word; a number that has a bit above the word's 19 is none (log 5). -/
def busWordOfNat (nbits w : Nat) : Option BusWord :=
  if w % 2 ^ nbits < 2 ^ 19 then some (BitVec.ofNat 19 (w % 2 ^ nbits)) else none

/-- The decoder on a word numbered as spec/opcode_table.json numbers it, bit 0 the least significant (R48). -/
def decodeTableWord (nbits w : Nat) : Option Instr := (busWordOfNat nbits w).map decodeWord

/-- The bus word of an instruction, from R48 and R50; a HOST_RD carries the canonical DATA 0x00. -/
def encodeWord : Instr → BusWord
  | .hostRd addr => packWord false addr 0x00#8
  | .hostWr addr data => packWord true addr data
  | .encode => packWord true cmdAddr 0x01#8
  | .decode => packWord true cmdAddr 0x02#8
  | .verify => packWord true cmdAddr 0x03#8
  | .frameCk => packWord true cmdAddr 0x04#8
  | .clear => packWord true cmdAddr 0x05#8
  | .illegalCmd code => packWord true cmdAddr code

/-- The mask of the instruction's row of spec/opcode_table.json. -/
def Instr.tableMask : Instr → BusWord
  | .hostRd _ => 0x40000#19
  | .hostWr _ _ => 0x40000#19
  | .encode => 0x7FFFF#19
  | .decode => 0x7FFFF#19
  | .verify => 0x7FFFF#19
  | .frameCk => 0x7FFFF#19
  | .clear => 0x7FFFF#19
  | .illegalCmd _ => 0x7FF00#19

/-- The bits the row of spec/opcode_table.json requires under its mask. -/
def Instr.tableMatch : Instr → BusWord
  | .hostRd _ => 0x00000#19
  | .hostWr _ _ => 0x40000#19
  | .encode => 0x50001#19
  | .decode => 0x50002#19
  | .verify => 0x50003#19
  | .frameCk => 0x50004#19
  | .clear => 0x50005#19
  | .illegalCmd _ => 0x50000#19

end Sys2Proof
end

