-- ==== Sys2Proof/Config.lean ====
section
/-! DEFINITION. What the spec leaves OPEN: the contents of PBUF after a reset, and nothing else (00_scope.md R7). The
fixed numbers of R7 are in Machine/Params.lean. -/

namespace Sys2Proof

/-- `pbuf_init` (R39, R88, U6): the byte PBUF[i] holds after a reset until the host writes it. The first argument says
which reset (0 is the one `State.reset` stands for, and each reset event counts on), the second is i. A FREE VALUE: it
has no body, so no proof can see any of its values. Log 3; safe. -/
opaque Config.pbufInit : Nat → Nat → Byte

end Sys2Proof
end

