-- ==== Sys2Proof/Machine/Params.lean ====
section
/-! DEFINITION. The fixed parameters of 00_scope.md R7, each a named constant (93, U7). -/

namespace Sys2Proof.Machine

/-- SYNC_NOCK: the bytes of the no-checksum sync marker in wire order, 0xAE then 0xC1 (R7, R52). -/
abbrev syncNoCk0 : Byte := 0xAE#8
abbrev syncNoCk1 : Byte := 0xC1#8

/-- SYNC_CK: the bytes of the checksum sync marker in wire order, 0xAF then 0xC1 (R7, R52). -/
abbrev syncCk0 : Byte := 0xAF#8
abbrev syncCk1 : Byte := 0xC1#8

/-- HDR_CK_LEN: the length of a checksum-mode header (R7, R54). -/
abbrev hdrCkLen : Byte := 6#8

/-- HDR_NOCK_LEN: the length of a no-checksum header (R7, R53). -/
abbrev hdrNoCkLen : Byte := 4#8

/-- MAX_LEN: the largest payload (R7). -/
abbrev maxLen : Nat := 255

/-- The size of PBUF (R7, R14). -/
abbrev pbufSize : Nat := 256

end Sys2Proof.Machine
end

