-- ==== Sys2Proof/Machine/State.lean ====
section
/-! DEFINITION. The state: the PFCV's own (`Device`, exactly the list of 10_state.md R12) and the host agent beside it
(`script`, `answers`: log 1). All plain data. -/

namespace Sys2Proof.Machine

/-- Six header bytes in wire order, byte 0 first: TXHDR and RXHDR (R26, R28). -/
structure Header where
  b0 : Byte
  b1 : Byte
  b2 : Byte
  b3 : Byte
  b4 : Byte
  b5 : Byte
  deriving DecidableEq, Repr

/-- STATUS (R16), field by field; the byte a host reads is `Status.toByte`. The host can write no field. Log 8. -/
structure Status where
  /-- ERR, bits [3:0]: the result code of the last command (R17). -/
  err : BitVec 4
  /-- HDR_VALID, bit [4] (R18). -/
  hdrValid : Bool
  /-- PAYLOAD_OK, bit [5] (R19). -/
  payloadOk : Bool
  /-- TX_VALID, bit [6] (R20). -/
  txValid : Bool
  /-- ANY_ERR, bit [7], sticky (R21). -/
  anyErr : Bool
  deriving DecidableEq, Repr

/-- PBUF (R14): `cells` lists, by rising index, exactly the bytes the host has written since the last reset; an
unlisted byte still holds the free `pbuf_init` (R39). `fill` says which reset's free contents those are. Log 3. -/
structure Memory where
  cells : List Host.Cell
  fill : Nat
  deriving DecidableEq, Repr

/-- The PFCV's architectural state: one field per item of R12 and nothing else. -/
structure Device where
  /-- PBUF, 256 bytes (R14). -/
  pbuf : Memory
  /-- STATUS (R16). -/
  status : Status
  /-- TX_TYPE (R22). -/
  txType : Byte
  /-- CNT, CNT_LO and CNT_HI (R23). -/
  cnt : Half
  /-- TX_HLEN (R24). -/
  txHlen : Byte
  /-- TX_LEN (R25). -/
  txLen : Byte
  /-- TXHDR[0..5] (R26). -/
  txhdr : Header
  /-- RXHDR[0..5] (R28). -/
  rxhdr : Header
  /-- RX_TYPE (R29). -/
  rxType : Byte
  /-- RX_LEN (R30). -/
  rxLen : Byte
  /-- RX_CK, RX_CK_LO and RX_CK_HI (R31). -/
  rxCk : Half
  /-- CK_CALC, CK_CALC_LO and CK_CALC_HI (R32). -/
  ckCalc : Half
  deriving DecidableEq, Repr

/-- What the outside does to the PFCV: a bus transaction (R48), or an assertion and release of the reset input, during
which the host issues no transaction (R87; log 4). -/
inductive HostEvent where
  | txn (w : BusWord)
  | reset
  deriving DecidableEq, Repr

/-- The whole system: the PFCV and its one host (R6). -/
structure State where
  /-- The PFCV. -/
  dev : Device
  /-- What the host does next, the next event first: the program is the host's sequence of transactions (R13, R46). -/
  script : List HostEvent
  /-- The bytes the host's HOST_RDs have been answered with, oldest first (R48). -/
  answers : List Byte
  deriving DecidableEq, Repr

/-- Why the machine stops: never. The spec has no fault that stops it: errors are STATUS codes and a bus transaction
can never fail (R79, R80), so this type has no constructor and nobody raises one. Log 7; neither safe nor unsafe, since
nothing is left out. -/
inductive Fault where
  deriving DecidableEq, Repr

/-- Why the model gives no meaning. -/
inductive Refusal where
  /-- Raised only by an arm of `exec` whose instruction has no meaning yet; no arm does. Safe. -/
  | notModelled (mnemonic : String)
  deriving DecidableEq, Repr

/-- Six bytes 0x00: TXHDR and RXHDR at reset, TXHDR after CLEAR (R26, R28, R88). -/
def Header.zero : Header := ⟨0#8, 0#8, 0#8, 0#8, 0#8, 0#8⟩

/-- STATUS = 0x00: every field 0 (R88). -/
def Status.zero : Status := ⟨0#4, false, false, false, false⟩

/-- The reset value of every item of state (R88); PBUF holds the free contents number `fill`. -/
def Device.reset (fill : Nat) : Device where
  pbuf := ⟨[], fill⟩
  status := Status.zero
  txType := 0#8
  cnt := 0#16
  txHlen := 0#8
  txLen := 0#8
  txhdr := Header.zero
  rxhdr := Header.zero
  rxType := 0#8
  rxLen := 0#8
  rxCk := 0#16
  ckCalc := 0#16

/-- The machine right after reset (R87, R88). The host has issued nothing yet (log 1, log 2). -/
def State.reset : State where
  dev := Device.reset 0
  script := []
  answers := []

end Sys2Proof.Machine
end

