-- ==== Sys2Proof/Machine/Operands.lean ====
section
/-! DEFINITION. Byte order, bytes of a header, and the places of the host register space (00_scope.md R9, 20_memory.md
R35, R40). -/

namespace Sys2Proof.Machine

/-- `le16(lo, hi)`: the value of a two-byte little-endian field whose first byte is `lo` (R9). -/
def le16 (lo hi : Byte) : Half := hi ++ lo

/-- `lo8(v) = v[7:0]` (R9). -/
def lo8 (v : Half) : Byte := v.extractLsb' 0 8

/-- `hi8(v) = v[15:8]` (R9). -/
def hi8 (v : Half) : Byte := v.extractLsb' 8 8

/-- `X[i]` of TXHDR or RXHDR, for i from 0 to 5 (R8). The spec gives no byte beyond 5; none is asked for in a state a
run reaches (log 9). -/
def Header.get (h : Header) : Nat → Byte
  | 0 => h.b0
  | 1 => h.b1
  | 2 => h.b2
  | 3 => h.b3
  | 4 => h.b4
  | 5 => h.b5
  | _ + 6 => 0#8

/-- `X[i] <- v` of RXHDR, for i from 0 to 5 (R38). -/
def Header.set (h : Header) (i : Nat) (v : Byte) : Header :=
  match i with
  | 0 => { h with b0 := v }
  | 1 => { h with b1 := v }
  | 2 => { h with b2 := v }
  | 3 => { h with b3 := v }
  | 4 => { h with b4 := v }
  | 5 => { h with b5 := v }
  | _ + 6 => h

/-- What an address of the host register space names (R35). -/
inductive Place where
  | pbuf (i : Nat)
  | cmd
  | status
  | txType
  | cntLo
  | cntHi
  | txHlen
  | txLen
  | txhdr (i : Nat)
  | rxhdr (i : Nat)
  | rxType
  | rxLen
  | rxCkLo
  | rxCkHi
  | ckCalcLo
  | ckCalcHi
  | frame (i : Nat)
  | reserved
  deriving DecidableEq, Repr

/-- Address decode of the host register space, row by row of R35's table; what remains below 0x200 is reserved (R36). -/
def placeAt (n : Nat) : Place :=
  if n ≤ 0x0FF then .pbuf n
  else if 0x200 ≤ n then .frame (n - 0x200)
  else if n = 0x100 then .cmd
  else if n = 0x101 then .status
  else if n = 0x102 then .txType
  else if n = 0x104 then .cntLo
  else if n = 0x105 then .cntHi
  else if n = 0x106 then .txHlen
  else if n = 0x107 then .txLen
  else if 0x108 ≤ n ∧ n ≤ 0x10D then .txhdr (n - 0x108)
  else if 0x110 ≤ n ∧ n ≤ 0x115 then .rxhdr (n - 0x110)
  else if n = 0x118 then .rxType
  else if n = 0x119 then .rxLen
  else if n = 0x11A then .rxCkLo
  else if n = 0x11B then .rxCkHi
  else if n = 0x11C then .ckCalcLo
  else if n = 0x11D then .ckCalcHi
  else .reserved

/-- What a bus address names (R35). -/
def placeOf (a : Addr) : Place := placeAt a.toNat

end Sys2Proof.Machine
end

