-- ==== Sys2Proof/Machine/Flags.lean ====
section
/-! DEFINITION. STATUS: its byte and its error codes (10_state.md R16, R17). -/

namespace Sys2Proof.Machine

/-- The results a command can report (R17, R80). -/
inductive ErrCode where
  | ok | invalidSync | checksumMismatch | malformedLength | payloadTooLong | sequenceError | illegalCmd
  deriving DecidableEq, Repr

/-- The value of STATUS.ERR for a result (R17); 7 to 15 are never produced. -/
def ErrCode.value : ErrCode → BitVec 4
  | .ok => 0#4
  | .invalidSync => 1#4
  | .checksumMismatch => 2#4
  | .malformedLength => 3#4
  | .payloadTooLong => 4#4
  | .sequenceError => 5#4
  | .illegalCmd => 6#4

/-- The byte STATUS reads as: ERR [3:0], HDR_VALID [4], PAYLOAD_OK [5], TX_VALID [6], ANY_ERR [7] (R16). -/
def Status.toByte (st : Status) : Byte :=
  BitVec.ofBool st.anyErr ++ BitVec.ofBool st.txValid ++ BitVec.ofBool st.payloadOk ++ BitVec.ofBool st.hdrValid ++ st.err

end Sys2Proof.Machine
end

