-- ==== Sys2Proof/Machine/Ops.lean ====
section
/-! DEFINITION. The named operations over PBUF and the registers: PBUF bytes, the checksum, the FRAME view, MemRead,
the two command epilogues, the reset input, and taking the host's next event. -/

namespace Sys2Proof.Machine

/-- The byte listed at index `i`, if the host has written it since the last reset. -/
def cellAt (i : Nat) : List Host.Cell → Option Byte
  | [] => none
  | (k, b) :: rest => if k = i then some b else cellAt i rest

/-- The list with `v` at index `i`, in rising order. -/
def putCell (i : Nat) (v : Byte) : List Host.Cell → List Host.Cell
  | [] => [(i, v)]
  | (k, b) :: rest =>
    if i < k then (i, v) :: (k, b) :: rest
    else if i = k then (i, v) :: rest
    else (k, b) :: putCell i v rest

/-- Indices rise strictly from `lo` on and stay below the size of PBUF. -/
def cellsRise : Nat → List Host.Cell → Bool
  | _, [] => true
  | lo, (k, _) :: rest => decide (lo ≤ k) && decide (k < pbufSize) && cellsRise (k + 1) rest

/-- PBUF is in its canonical form: one cell per byte written since the last reset, by rising index, none outside PBUF
(log 3). -/
def Memory.wf (m : Memory) : Bool := cellsRise 0 m.cells

/-- `PBUF[i]`: the byte last written there by the host, or `pbuf_init[i]` (R39). -/
def Memory.read (m : Memory) (i : Nat) : Byte := (cellAt i m.cells).getD (Config.pbufInit m.fill i)

/-- `PBUF[i] <- v` (R38). -/
def Memory.write (m : Memory) (i : Nat) (v : Byte) : Memory := { m with cells := putCell i v m.cells }

/-- The exact sum of the first `n` bytes of PBUF, each unsigned (R67). -/
def Memory.byteSum (m : Memory) : Nat → Nat
  | 0 => 0
  | n + 1 => m.byteSum n + (m.read n).toNat

/-- `Sum16(n)`: that sum mod 2^16 (R67). -/
def Memory.sum16 (m : Memory) (n : Nat) : Half := BitVec.ofNat 16 (m.byteSum n)

/-- SyncOK: the first two bytes of RXHDR are the checksum-mode marker (R63). -/
def Device.syncOk (d : Device) : Bool := d.rxhdr.b0 == syncCk0 && d.rxhdr.b1 == syncCk1

/-- A host read of FRAME[i]: a view of TXHDR and PBUF, read live (R27). -/
def Device.frameByte (d : Device) (i : Nat) : Byte :=
  if !d.status.txValid then 0#8
  else if i < d.txHlen.toNat then d.txhdr.get i
  else if i < d.txHlen.toNat + d.txLen.toNat then d.pbuf.read (i - d.txHlen.toNat)
  else 0#8

/-- `MemRead(a, 1)` (R37). -/
def Device.memRead (d : Device) (a : Addr) : Byte :=
  match placeOf a with
  | .pbuf i => d.pbuf.read i
  | .cmd => 0#8
  | .status => d.status.toByte
  | .txType => d.txType
  | .cntLo => lo8 d.cnt
  | .cntHi => hi8 d.cnt
  | .txHlen => d.txHlen
  | .txLen => d.txLen
  | .txhdr i => d.txhdr.get i
  | .rxhdr i => d.rxhdr.get i
  | .rxType => d.rxType
  | .rxLen => d.rxLen
  | .rxCkLo => lo8 d.rxCk
  | .rxCkHi => hi8 d.rxCk
  | .ckCalcLo => lo8 d.ckCalc
  | .ckCalcHi => hi8 d.ckCalc
  | .frame i => d.frameByte i
  | .reserved => 0#8

/-- `ok()`: a command ends successfully; ERR becomes OK and ANY_ERR is left alone (R74). -/
def Device.ok (d : Device) : Device := { d with status := { d.status with err := ErrCode.ok.value } }

/-- `fail(code)`: a command ends with an error; ERR becomes the code, ANY_ERR becomes 1, and nothing else is written
(R75). This is all the block has for taking an exception: no trap, no saved state, no control transfer (R79, R84). -/
def Device.fail (d : Device) (code : ErrCode) : Device :=
  { d with status := { d.status with err := code.value, anyErr := true } }

/-- The PFCV is now `d`; the host's side is untouched. -/
def State.withDev (s : State) (d : Device) : State := { s with dev := d }

/-- The transaction answers the host with the byte `b` (R48). -/
def State.answer (s : State) (b : Byte) : State := { s with answers := s.answers ++ [b] }

/-- The reset input is asserted and released: every item of state holds its reset value, PBUF fresh free contents
(R87, R88; log 4). -/
def State.applyReset (s : State) : State := s.withDev (Device.reset (s.dev.pbuf.fill + 1))

/-- The host's next event, and the state once the host has issued it. -/
def State.nextEvent (s : State) : Option (HostEvent × State) :=
  match s.script with
  | [] => none
  | e :: rest => some (e, { s with script := rest })

/-- The host issues `e` next, before what it had to do. -/
def State.issueFirst (s : State) (e : HostEvent) : State := { s with script := e :: s.script }

end Sys2Proof.Machine
end

