-- ==== Sys2Proof/Machine/Checksum.lean ====
section
/-! DEFINITION. VERIFY and FRAME_CK (42_checksum.md). -/

namespace Sys2Proof.Machine

/-- The command VERIFY (R70); its conditions are checked in the order of R82. -/
def verifyCommand (d : Device) : Device :=
  if !d.status.hdrValid then
    { d with status := { d.status with payloadOk := false } }.fail .sequenceError
  else if d.cnt ≠ d.rxLen.setWidth 16 then
    { d with status := { d.status with payloadOk := false } }.fail .malformedLength
  else if d.pbuf.sum16 d.rxLen.toNat = d.rxCk then
    { d with
      ckCalc := d.pbuf.sum16 d.rxLen.toNat
      status := { d.status with payloadOk := true } }.ok
  else
    { d with
      ckCalc := d.pbuf.sum16 d.rxLen.toNat
      status := { d.status with payloadOk := false } }.fail .checksumMismatch

/-- VERIFY (R70). -/
def execVerify (s : State) : Host.Outcome State Fault Refusal := .next (s.withDev (verifyCommand s.dev))

/-- The command FRAME_CK (R72): latch a checksum-mode header and CK_CALC, or fail with PAYLOAD_TOO_LONG. -/
def frameCkCommand (d : Device) : Device :=
  if maxLen < d.cnt.toNat then
    { d with status := { d.status with txValid := false } }.fail .payloadTooLong
  else
    { d with
      txhdr := ⟨syncCk0, syncCk1, d.txType, lo8 d.cnt, lo8 (d.pbuf.sum16 d.cnt.toNat), hi8 (d.pbuf.sum16 d.cnt.toNat)⟩
      txHlen := hdrCkLen
      txLen := lo8 d.cnt
      ckCalc := d.pbuf.sum16 d.cnt.toNat
      status := { d.status with txValid := true } }.ok

/-- FRAME_CK (R72). -/
def execFrameCk (s : State) : Host.Outcome State Fault Refusal := .next (s.withDev (frameCkCommand s.dev))

end Sys2Proof.Machine
end

