-- ==== Sys2Proof/Machine/Control.lean ====
section
/-! DEFINITION. CLEAR and the reserved command codes (43_control.md). -/

namespace Sys2Proof.Machine

/-- The command CLEAR (R76): the result state to its reset values; PBUF, TX_TYPE, CNT and RXHDR are kept. -/
def clearCommand (d : Device) : Device :=
  { d with
    status := Status.zero
    txhdr := Header.zero
    txHlen := 0#8
    txLen := 0#8
    rxType := 0#8
    rxLen := 0#8
    rxCk := 0#16
    ckCalc := 0#16 }

/-- CLEAR (R76). -/
def execClear (s : State) : Host.Outcome State Fault Refusal := .next (s.withDev (clearCommand s.dev))

/-- A reserved command code (R77): ERR and ANY_ERR, and no validity flag. -/
def illegalCommand (d : Device) : Device := d.fail .illegalCmd

/-- ILLEGAL_CMD (R77): which reserved code it was leaves no trace. -/
def execIllegalCmd (_code : Byte) (s : State) : Host.Outcome State Fault Refusal :=
  .next (s.withDev (illegalCommand s.dev))

end Sys2Proof.Machine
end

