-- ==== Sys2Proof/Machine/Framer.lean ====
section
/-! DEFINITION. ENCODE (40_framer.md). -/

namespace Sys2Proof.Machine

/-- The command ENCODE (R61): latch a no-checksum header, or fail with PAYLOAD_TOO_LONG and hide the old one. -/
def encodeCommand (d : Device) : Device :=
  if maxLen < d.cnt.toNat then
    { d with status := { d.status with txValid := false } }.fail .payloadTooLong
  else
    { d with
      txhdr := ⟨syncNoCk0, syncNoCk1, d.txType, lo8 d.cnt, 0#8, 0#8⟩
      txHlen := hdrNoCkLen
      txLen := lo8 d.cnt
      status := { d.status with txValid := true } }.ok

/-- ENCODE (R61). -/
def execEncode (s : State) : Host.Outcome State Fault Refusal := .next (s.withDev (encodeCommand s.dev))

end Sys2Proof.Machine
end

