-- ==== Sys2Proof/Machine/HeaderDecoder.lean ====
section
/-! DEFINITION. DECODE (41_header_decoder.md). -/

namespace Sys2Proof.Machine

/-- The command DECODE (R64): check the sync marker and latch type, length and checksum, or fail with INVALID_SYNC. -/
def decodeHeaderCommand (d : Device) : Device :=
  if d.syncOk then
    { d with
      rxType := d.rxhdr.b2
      rxLen := d.rxhdr.b3
      rxCk := le16 d.rxhdr.b4 d.rxhdr.b5
      status := { d.status with payloadOk := false, hdrValid := true } }.ok
  else
    { d with status := { d.status with payloadOk := false, hdrValid := false } }.fail .invalidSync

/-- DECODE (R64). -/
def execDecode (s : State) : Host.Outcome State Fault Refusal := .next (s.withDev (decodeHeaderCommand s.dev))

end Sys2Proof.Machine
end

