-- ==== Sys2Proof/Machine/HostBus.lean ====
section
/-! DEFINITION. HOST_RD and HOST_WR (20_memory.md R37, R38). -/

namespace Sys2Proof.Machine

/-- A command, run to completion (R15, R42, R50). -/
def Device.runCommand (d : Device) : Command → Device
  | .encode => encodeCommand d
  | .decode => decodeHeaderCommand d
  | .verify => verifyCommand d
  | .frameCk => frameCkCommand d
  | .clear => clearCommand d
  | .illegal => illegalCommand d

/-- `MemWrite(a, 1, v)` (R38); a write to a reserved or read-only place has no effect (R36). -/
def Device.memWrite (d : Device) (a : Addr) (v : Byte) : Device :=
  match placeOf a with
  | .pbuf i => { d with pbuf := d.pbuf.write i v }
  | .cmd => d.runCommand (commandOf v)
  | .txType => { d with txType := v }
  | .cntLo => { d with cnt := le16 v (hi8 d.cnt) }
  | .cntHi => { d with cnt := le16 (lo8 d.cnt) v }
  | .rxhdr i => { d with rxhdr := d.rxhdr.set i v }
  | .status => d
  | .txHlen => d
  | .txLen => d
  | .txhdr _ => d
  | .rxType => d
  | .rxLen => d
  | .rxCkLo => d
  | .rxCkHi => d
  | .ckCalcLo => d
  | .ckCalcHi => d
  | .frame _ => d
  | .reserved => d

/-- HOST_RD (R37): answers one byte and changes no state of the PFCV. -/
def execHostRd (addr : Addr) (s : State) : Host.Outcome State Fault Refusal :=
  .next (s.answer (s.dev.memRead addr))

/-- HOST_WR (R38). At CMD it runs the command, so that R38 is modelled whole, though the decoder gives such a word as
its command row (log 6). -/
def execHostWr (addr : Addr) (data : Byte) (s : State) : Host.Outcome State Fault Refusal :=
  .next (s.withDev (s.dev.memWrite addr data))

end Sys2Proof.Machine
end

