-- ==== Sys2Proof/Machine/Dispatch.lean ====
section
/-! DEFINITION. One arm per row of spec/opcode_table.json. -/

namespace Sys2Proof.Machine

/-- One bus transaction, run to completion (R42). No arm stops. -/
def exec (i : Instr) (s : State) : Host.Outcome State Fault Refusal :=
  match i with
  | .hostRd addr => Sys2Proof.Machine.execHostRd addr s
  | .hostWr addr data => Sys2Proof.Machine.execHostWr addr data s
  | .encode => Sys2Proof.Machine.execEncode s
  | .decode => Sys2Proof.Machine.execDecode s
  | .verify => Sys2Proof.Machine.execVerify s
  | .frameCk => Sys2Proof.Machine.execFrameCk s
  | .clear => Sys2Proof.Machine.execClear s
  | .illegalCmd code => Sys2Proof.Machine.execIllegalCmd code s

end Sys2Proof.Machine
end

