-- ==== Sys2Proof/Machine/Step.lean ====
section
/-! DEFINITION. One step: the host's next event, run to completion (00_scope.md R5, 20_memory.md R42). -/

namespace Sys2Proof.Machine

/-- One step. A bus transaction is decoded and executed (R42); a reset event resets the PFCV (R87); with no event
outstanding nothing happens, since the PFCV never steps on its own (R6; log 2). -/
def step (s : State) : Host.Outcome State Fault Refusal :=
  match s.nextEvent with
  | none => .next s
  | some (.reset, s') => .next s'.applyReset
  | some (.txn w, s') => exec (decodeWord w) s'

/-- The host issues the bus word `w`, numbered as spec/opcode_table.json numbers it, as its next transaction; a number
that is no bus word changes nothing (log 2, log 5). -/
def State.withFetchWord (s : State) (nbits w : Nat) : State :=
  match busWordOfNat nbits w with
  | some word => s.issueFirst (.txn word)
  | none => s

end Sys2Proof.Machine
end

