-- ==== Sys2Proof/Machine/Assembler.lean ====
section
/-! DEFINITION. The assembler notation for host programs (30_encoding.md R57, R58), line by line as data; its text, with
blanks and comments, is left out (log 10). -/

namespace Sys2Proof.Machine

/-- The address symbols of R57. -/
inductive Symbol where
  | pbuf (i : Nat)
  | cmd
  | status
  | txType
  | cntLo
  | cntHi
  | txHlen
  | txLen
  | txhdr (i : Nat)
  | rxhdr (i : Nat)
  | rxType
  | rxLen
  | rxCkLo
  | rxCkHi
  | ckCalcLo
  | ckCalcHi
  | frame (i : Nat)
  deriving DecidableEq, Repr

/-- The address a symbol stands for; none where its index is outside the range R57 gives it. -/
def Symbol.addr : Symbol → Option Nat
  | .pbuf i => if i ≤ 255 then some (0x000 + i) else none
  | .cmd => some 0x100
  | .status => some 0x101
  | .txType => some 0x102
  | .cntLo => some 0x104
  | .cntHi => some 0x105
  | .txHlen => some 0x106
  | .txLen => some 0x107
  | .txhdr i => if i ≤ 5 then some (0x108 + i) else none
  | .rxhdr i => if i ≤ 5 then some (0x110 + i) else none
  | .rxType => some 0x118
  | .rxLen => some 0x119
  | .rxCkLo => some 0x11A
  | .rxCkHi => some 0x11B
  | .ckCalcLo => some 0x11C
  | .ckCalcHi => some 0x11D
  | .frame i => if i ≤ 511 then some (0x200 + i) else none

/-- ADDR of a line: a number or a symbol (R57). -/
inductive AsmAddr where
  | number (n : Nat)
  | symbol (x : Symbol)
  deriving DecidableEq, Repr

/-- The address an ADDR stands for; none where it is out of range (R57). -/
def AsmAddr.addr : AsmAddr → Option Nat
  | .number n => if n ≤ 0x3FF then some n else none
  | .symbol x => x.addr

/-- One line of a host program: one transaction (R57). -/
inductive AsmLine where
  | rd (addr : AsmAddr)
  | wr (addr : AsmAddr) (data : Nat)
  deriving DecidableEq, Repr

/-- The bus word of a line, or none where the assembler refuses an ADDR or DATA out of range (R57). -/
def AsmLine.word : AsmLine → Option BusWord
  | .rd addr => addr.addr.map fun a => packWord false (BitVec.ofNat 10 a) 0#8
  | .wr addr data =>
    if data ≤ 0xFF then addr.addr.map fun a => packWord true (BitVec.ofNat 10 a) (BitVec.ofNat 8 data) else none

/-- The pseudo-instructions of R58. -/
inductive Pseudo where
  | encode
  | decode
  | verify
  | frameck
  | clear
  | settype (t : Nat)
  | setcnt (n : Nat)
  | ldpay (bytes : List Nat)
  | ldhdr (h0 h1 h2 h3 h4 h5 : Nat)
  | rdframe (m : Nat)
  | rdstat
  deriving DecidableEq, Repr

/-- The lines `wr PBUF+i, b` for the bytes from index `i` on, in index order (R58). -/
def ldpayLines (i : Nat) : List Nat → List AsmLine
  | [] => []
  | b :: rest => .wr (.symbol (.pbuf i)) b :: ldpayLines (i + 1) rest

/-- The expansion of a pseudo-instruction, in the order R58 gives; none where an operand is out of its range. -/
def Pseudo.expand : Pseudo → Option (List AsmLine)
  | .encode => some [.wr (.symbol .cmd) 0x01]
  | .decode => some [.wr (.symbol .cmd) 0x02]
  | .verify => some [.wr (.symbol .cmd) 0x03]
  | .frameck => some [.wr (.symbol .cmd) 0x04]
  | .clear => some [.wr (.symbol .cmd) 0x05]
  | .settype t => some [.wr (.symbol .txType) t]
  | .setcnt n =>
    if n ≤ 65535 then some [.wr (.symbol .cntLo) (n % 256), .wr (.symbol .cntHi) (n / 256)] else none
  | .ldpay bytes => if bytes.length ≤ 256 then some (ldpayLines 0 bytes) else none
  | .ldhdr h0 h1 h2 h3 h4 h5 =>
    some [.wr (.symbol (.rxhdr 0)) h0, .wr (.symbol (.rxhdr 1)) h1, .wr (.symbol (.rxhdr 2)) h2,
      .wr (.symbol (.rxhdr 3)) h3, .wr (.symbol (.rxhdr 4)) h4, .wr (.symbol (.rxhdr 5)) h5]
  | .rdframe m => if m ≤ 512 then some ((List.range m).map fun i => .rd (.symbol (.frame i))) else none
  | .rdstat => some [.rd (.symbol .status)]

/-- The bus words of a program, or none where the assembler refuses one of its lines (R57). -/
def assemble : List AsmLine → Option (List BusWord)
  | [] => some []
  | line :: rest => line.word.bind fun w => (assemble rest).map fun ws => w :: ws

/-- The bus words of a pseudo-instruction (R57, R58). -/
def Pseudo.words (p : Pseudo) : Option (List BusWord) := p.expand.bind assemble

end Sys2Proof.Machine
end

