-- ==== Sys2Proof/Machine/Wire.lean ====
section
/-! DEFINITION. The wire formats the block builds and checks, as byte sequences (30_encoding.md R52 to R56, 40_framer.md
R59), and PBUF and FRAME as sequences (00_scope.md R11). -/

namespace Sys2Proof.Machine

/-- `PBUF[0..n-1]` (R11). -/
def Memory.payload (m : Memory) (n : Nat) : List Byte := (List.range n).map m.read

/-- `FRAME[0..n-1]` (R11, R27). -/
def Device.frame (d : Device) (n : Nat) : List Byte := (List.range n).map d.frameByte

/-- `FrameNoCk(t, p)`, for at most 255 payload bytes (R53, R59). -/
def frameNoCk (t : Byte) (p : List Byte) : List Byte :=
  [syncNoCk0, syncNoCk1, t, BitVec.ofNat 8 p.length] ++ p

/-- A checksum-mode frame of type `t`, checksum `ck` and payload `p`, for at most 255 payload bytes (R54, R56). -/
def frameCk (t : Byte) (ck : Half) (p : List Byte) : List Byte :=
  [syncCk0, syncCk1, t, BitVec.ofNat 8 p.length, lo8 ck, hi8 ck] ++ p

/-- How long a frame is, found from its header alone; the sync marker tells the two header forms apart and no other
prefix exists (R55). -/
def frameLength : List Byte → Option Nat
  | b0 :: b1 :: _ :: len :: _ =>
    if b0 = syncCk0 ∧ b1 = syncCk1 then some (hdrCkLen.toNat + len.toNat)
    else if b0 = syncNoCk0 ∧ b1 = syncNoCk1 then some (hdrNoCkLen.toNat + len.toNat)
    else none
  | _ => none

end Sys2Proof.Machine
end

