-- ==== Sys2Proof/Safety.lean ====
section
/-! DEFINITION. The terms statements use: a sequence of transactions, what holds after one, the kinds of transaction,
and the invariant every step keeps. -/

namespace Sys2Proof.Machine

/-- The transactions of a list, one after another, stopping at the first that does not answer a next state (R13, R44). -/
def execAll : List Instr → State → Host.Outcome State Fault Refusal
  | [], s => .next s
  | i :: rest, s =>
    match exec i s with
    | .next t => execAll rest t
    | .fault r => .fault r
    | .refused r => .refused r

/-- As many steps as said, stopping at the first that does not answer a next state. -/
def stepMany : Nat → State → Host.Outcome State Fault Refusal
  | 0, s => .next s
  | n + 1, s =>
    match step s with
    | .next t => stepMany n t
    | .fault r => .fault r
    | .refused r => .refused r

/-- `i` at `s` completes, in a state that meets `P`. -/
def After (i : Instr) (s : State) (P : State → Prop) : Prop := ∃ t, exec i s = .next t ∧ P t

/-- The transactions `is` complete, in a state that meets `P`. -/
def AfterAll (is : List Instr) (s : State) (P : State → Prop) : Prop := ∃ t, execAll is s = .next t ∧ P t

/-- A command row of the opcode table (R49, R50). -/
abbrev IsCommand : Instr → Prop
  | .hostRd _ => False
  | .hostWr _ _ => False
  | .encode => True
  | .decode => True
  | .verify => True
  | .frameCk => True
  | .clear => True
  | .illegalCmd _ => True

/-- The value a transaction writes to PBUF[i], if it writes there (R38). -/
def writesPbuf (i : Nat) : Instr → Option Byte
  | .hostRd _ => none
  | .hostWr addr data => if addr.toNat = i then some data else none
  | .encode => none
  | .decode => none
  | .verify => none
  | .frameCk => none
  | .clear => none
  | .illegalCmd _ => none

/-- The last value a list of transactions writes to PBUF[i], or `b` if none does (R39). -/
def lastPbufWrite (i : Nat) : List Instr → Byte → Byte
  | [], b => b
  | x :: rest, b => lastPbufWrite i rest ((writesPbuf i x).getD b)

/-- The transmit registers hold what the last successful build left, or nothing since CLEAR or reset (R24, R25, R26). -/
def Device.TxLatched (d : Device) : Prop :=
  (d.txHlen = 0#8 ∧ d.txLen = 0#8 ∧ d.txhdr = Header.zero) ∨
  (d.txHlen = 4#8 ∧ d.txhdr = ⟨0xAE#8, 0xC1#8, d.txhdr.b2, d.txLen, 0#8, 0#8⟩) ∨
  (d.txHlen = 6#8 ∧ d.txhdr = ⟨0xAF#8, 0xC1#8, d.txhdr.b2, d.txLen, d.txhdr.b4, d.txhdr.b5⟩ ∧
    (le16 d.txhdr.b4 d.txhdr.b5).toNat ≤ 0xFE01)

/-- What holds of the PFCV after every run, and is kept by every step from any state that meets it. -/
structure Device.Inv (d : Device) : Prop where
  /-- PBUF is in canonical form (log 3). -/
  pbufForm : d.pbuf.wf = true
  /-- ERR values 7 to 15 are never produced (R17). -/
  errCode : d.status.err.toNat ≤ 6
  /-- An error in ERR shows in ANY_ERR (R21, R75). -/
  errSticky : d.status.err ≠ 0#4 → d.status.anyErr = true
  /-- A payload is vouched for only under a valid header (R18, R19). -/
  payloadHeader : d.status.payloadOk = true → d.status.hdrValid = true
  /-- A vouched-for payload has a checksum the sum can reach (R68, R70). -/
  payloadSum : d.status.payloadOk = true → d.rxCk.toNat ≤ 0xFE01
  /-- TX_HLEN, TX_LEN and TXHDR agree (R24, R25, R26). -/
  txLatched : d.TxLatched
  /-- A visible frame has a header (R20, R24). -/
  txShown : d.status.txValid = true → d.txHlen ≠ 0#8
  /-- CK_CALC holds a sum (R32, R68). -/
  ckCalcSum : d.ckCalc.toNat ≤ 0xFE01

end Sys2Proof.Machine
end

