-- ==== Sys2Proof/Certificates/Slice0/Obligations.lean ====
section
/-! DEFINITION. The statements for the provers. Nothing here is about a program. -/

namespace Sys2Proof.Certificates

open Sys2Proof.Machine

/-- The two bytes of the checksum-mode marker stand at the front of RXHDR (R63). -/
abbrev SyncAt (d : Device) : Prop := d.rxhdr.b0 = 0xAF#8 ∧ d.rxhdr.b1 = 0xC1#8

/-- The state of PFCV `d` with STATUS's ERR and ANY_ERR as an error leaves them (R75). -/
abbrev Status.failed (st : Status) (code : BitVec 4) : Status := { st with err := code, anyErr := true }

/-- The address belongs to the reserved ranges as R36 lists them. -/
abbrev ReservedAddr (n : Nat) : Prop :=
  n = 0x103 ∨ n = 0x10E ∨ n = 0x10F ∨ n = 0x116 ∨ n = 0x117 ∨ (0x11E ≤ n ∧ n ≤ 0x1FF)

/-- The address is one of the read-only registers as R36 lists them. -/
abbrev ReadOnlyAddr (n : Nat) : Prop :=
  n = 0x101 ∨ n = 0x106 ∨ n = 0x107 ∨ (0x108 ≤ n ∧ n ≤ 0x10D) ∨ (0x118 ≤ n ∧ n ≤ 0x11D) ∨ (0x200 ≤ n ∧ n ≤ 0x3FF)

/-- R27's text for a host read of FRAME[i]. -/
def specFrame (d : Device) (i : Nat) : Byte :=
  if d.status.txValid = false then 0x00#8
  else if i < d.txHlen.toNat then d.txhdr.get i
  else if i < d.txHlen.toNat + d.txLen.toNat then d.pbuf.read (i - d.txHlen.toNat)
  else 0x00#8

/-- R37's text for `MemRead(a, 1)`; 16-bit registers by the value of their halves, STATUS by the value of its fields. -/
def specMemRead (d : Device) (a : Nat) : Byte :=
  if a ≤ 0x0FF then d.pbuf.read a
  else if a = 0x100 then 0x00#8
  else if a = 0x101 then
    BitVec.ofNat 8 (d.status.err.toNat + 16 * d.status.hdrValid.toNat + 32 * d.status.payloadOk.toNat +
      64 * d.status.txValid.toNat + 128 * d.status.anyErr.toNat)
  else if a = 0x102 then d.txType
  else if a = 0x104 then BitVec.ofNat 8 (d.cnt.toNat % 256)
  else if a = 0x105 then BitVec.ofNat 8 (d.cnt.toNat / 256)
  else if a = 0x106 then d.txHlen
  else if a = 0x107 then d.txLen
  else if 0x108 ≤ a ∧ a ≤ 0x10D then d.txhdr.get (a - 0x108)
  else if 0x110 ≤ a ∧ a ≤ 0x115 then d.rxhdr.get (a - 0x110)
  else if a = 0x118 then d.rxType
  else if a = 0x119 then d.rxLen
  else if a = 0x11A then BitVec.ofNat 8 (d.rxCk.toNat % 256)
  else if a = 0x11B then BitVec.ofNat 8 (d.rxCk.toNat / 256)
  else if a = 0x11C then BitVec.ofNat 8 (d.ckCalc.toNat % 256)
  else if a = 0x11D then BitVec.ofNat 8 (d.ckCalc.toNat / 256)
  else if 0x200 ≤ a ∧ a ≤ 0x3FF then specFrame d (a - 0x200)
  else 0x00#8

/-- R38's text for `MemWrite(a, 1, v)` at every address but CMD. -/
def specMemWrite (d : Device) (a : Nat) (v : Byte) : Device :=
  if a ≤ 0x0FF then { d with pbuf := d.pbuf.write a v }
  else if a = 0x102 then { d with txType := v }
  else if a = 0x104 then { d with cnt := BitVec.ofNat 16 (d.cnt.toNat / 256 * 256 + v.toNat) }
  else if a = 0x105 then { d with cnt := BitVec.ofNat 16 (v.toNat * 256 + d.cnt.toNat % 256) }
  else if 0x110 ≤ a ∧ a ≤ 0x115 then { d with rxhdr := d.rxhdr.set (a - 0x110) v }
  else d

/-- The transactions by which a host loads RXHDR[0..5] (R28, R58). -/
def loadRxhdr (h0 h1 h2 h3 h4 h5 : Byte) : List Instr :=
  [.hostWr 0x110#10 h0, .hostWr 0x111#10 h1, .hostWr 0x112#10 h2, .hostWr 0x113#10 h3, .hostWr 0x114#10 h4,
    .hostWr 0x115#10 h5]

end Sys2Proof.Certificates

open Sys2Proof Sys2Proof.Machine Sys2Proof.Certificates

/-! ### Encodings -/

/-- R48 to R51: no bit of an encoding is dropped. -/
def Obligations.DecodeOfEncodedInstruction : Prop := ∀ i : Instr, i.WellFormed → decodeWord (encodeWord i) = i

/-- A word is read back, but for a HOST_RD's DATA, which is ignored and canonically 0x00 (R48). That every decoded
instruction is well-formed, so that a CMD write is a command row (R49, R50) and never `hostWr 0x100`, is log 6: DEDUCED
and DESIGN CHOICE. -/
def Obligations.EncodeOfDecodedWord : Prop := ∀ w : BusWord,
  (decodeWord w).WellFormed ∧
    encodeWord (decodeWord w) = if w.toNat < 2 ^ 18 then BitVec.ofNat 19 (w.toNat / 256 * 256) else w

/-- R48, whole: the word's value, that every word is a transaction, what a read answers and what a write performs, and
the canonical DATA of a read. -/
def Obligations.BusWordFieldsAndEffect : Prop := ∀ (W : Nat) (a : Addr) (v : Byte) (s : State), W ≤ 1 →
  let word := W * 2 ^ 18 + a.toNat * 2 ^ 8 + v.toNat
  ∃ i, decodeTableWord 24 word = some i ∧
    exec i s = (if W = 0 then .next { s with answers := s.answers ++ [specMemRead s.dev a.toNat] }
      else if a.toNat = 0x100 then exec (decodeCommand v) s
      else .next { s with dev := specMemWrite s.dev a.toNat v }) ∧
    (W = 0 → (encodeWord i).toNat = a.toNat * 2 ^ 8)

/-- R50, whole: the opcode map of the command byte, on the bus word of a CMD write. -/
def Obligations.CommandByteMap : Prop := ∀ c : Byte,
  decodeWord (BitVec.ofNat 19 (0x50000 + c.toNat)) =
    match c.toNat with
    | 1 => Instr.encode
    | 2 => Instr.decode
    | 3 => Instr.verify
    | 4 => Instr.frameCk
    | 5 => Instr.clear
    | _ => Instr.illegalCmd c

/-- opcode_table.json: the decoded instruction's row fits the word under the row's mask. -/
def Obligations.DecodedWordFitsItsTableRow : Prop := ∀ w : BusWord,
  w &&& (decodeWord w).tableMask = (decodeWord w).tableMatch

/-- Words of the programs P1 to P5 and V-HA9, V-HA10 of 95_test_vectors.md, as decoded. -/
def Obligations.WordsOfTheSpecDecode : Prop :=
  decodeTableWord 24 0x50220 = some (.hostWr 0x102#10 0x20#8) ∧
  decodeTableWord 24 0x10100 = some (.hostRd 0x101#10) ∧
  decodeTableWord 24 0x100AB = some (.hostRd 0x100#10) ∧
  decodeTableWord 24 0x7FFFF = some (.hostWr 0x3FF#10 0xFF#8) ∧
  decodeTableWord 24 0x50001 = some .encode ∧
  decodeTableWord 24 0x50002 = some .decode ∧
  decodeTableWord 24 0x50003 = some .verify ∧
  decodeTableWord 24 0x50004 = some .frameCk ∧
  decodeTableWord 24 0x50005 = some .clear ∧
  decodeTableWord 24 0x50081 = some (.illegalCmd 0x81#8)

/-! ### The machine -/

/-- R5, R42, R48: a step with a transaction to do is `exec` of the decoded word, the transaction taken off what the host
has to do; and the word `withFetchWord` places is the very next one run. -/
def Obligations.StepRunsTheDecodedTransaction : Prop :=
  (∀ (s : State) (w : BusWord) (rest : List HostEvent), s.script = .txn w :: rest →
    step s = exec (decodeWord w) { s with script := rest }) ∧
  ∀ (s : State) (w : BusWord), step (s.withFetchWord 24 w.toNat) = exec (decodeWord w) s

/-- R6: the PFCV never steps on its own. That a step with nothing to do answers the same state is the model's choice
(log 2). -/
def Obligations.StepWithNothingToDoIsIdle : Prop := ∀ s : State, s.script = [] → step s = .next s

/-- R79, R80: nothing stops the machine. -/
def Obligations.NoStepStops : Prop := ∀ s : State, ∃ t, step s = .next t

/-- R13, R44: the program is the host's transactions, run in the host's order: as many steps as there are words run
exactly the decoded words, one after another, from any state. -/
def Obligations.TransactionsRunInHostOrder : Prop :=
  ∀ (ws : List BusWord) (rest : List HostEvent) (s : State), s.script = ws.map .txn ++ rest →
    stepMany ws.length s = execAll (ws.map decodeWord) { s with script := rest }

/-- R88, whole: the reset value of every item of state, and its value after CLEAR. -/
def Obligations.ResetAndClearValues : Prop :=
  ((∀ j, State.reset.dev.pbuf.read j = Config.pbufInit State.reset.dev.pbuf.fill j) ∧
    State.reset.dev.status = ⟨0#4, false, false, false, false⟩ ∧ State.reset.dev.txType = 0#8 ∧
    State.reset.dev.cnt = 0#16 ∧ State.reset.dev.txHlen = 0#8 ∧ State.reset.dev.txLen = 0#8 ∧
    State.reset.dev.txhdr = ⟨0#8, 0#8, 0#8, 0#8, 0#8, 0#8⟩ ∧ State.reset.dev.rxhdr = ⟨0#8, 0#8, 0#8, 0#8, 0#8, 0#8⟩ ∧
    State.reset.dev.rxType = 0#8 ∧ State.reset.dev.rxLen = 0#8 ∧ State.reset.dev.rxCk = 0#16 ∧
    State.reset.dev.ckCalc = 0#16 ∧ State.reset.dev.memRead 0x100#10 = 0#8 ∧
    ∀ a : Addr, 0x200 ≤ a.toNat → State.reset.dev.memRead a = 0#8) ∧
  ∀ s : State, After .clear s fun t =>
    (t.dev.pbuf = s.dev.pbuf ∧ t.dev.txType = s.dev.txType ∧ t.dev.cnt = s.dev.cnt ∧ t.dev.rxhdr = s.dev.rxhdr) ∧
    (t.dev.status = ⟨0#4, false, false, false, false⟩ ∧ t.dev.txHlen = 0#8 ∧ t.dev.txLen = 0#8 ∧
      t.dev.txhdr = ⟨0#8, 0#8, 0#8, 0#8, 0#8, 0#8⟩ ∧ t.dev.rxType = 0#8 ∧ t.dev.rxLen = 0#8 ∧ t.dev.rxCk = 0#16 ∧
      t.dev.ckCalc = 0#16) ∧
    t.dev.memRead 0x100#10 = 0#8 ∧ ∀ a : Addr, 0x200 ≤ a.toNat → t.dev.memRead a = 0#8

/-- R87: the reset input puts every item of state at its reset value. That it is an event of `script`, and that PBUF
then holds fresh free contents, is the model's choice (log 3, log 4). -/
def Obligations.ResetInputResets : Prop := ∀ (s : State) (rest : List HostEvent), s.script = .reset :: rest →
  ∃ t, step s = .next t ∧ t.script = rest ∧ t.answers = s.answers ∧
    t.dev = { State.reset.dev with pbuf := t.dev.pbuf } ∧
    ∀ j, t.dev.pbuf.read j = Config.pbufInit (s.dev.pbuf.fill + 1) j

/-! ### HOST_RD and HOST_WR -/

/-- R37, whole: HOST_RD answers `MemRead(a, 1)` and changes no state of the PFCV. -/
def Obligations.HostReadAnswers : Prop := ∀ (a : Addr) (s : State),
  exec (.hostRd a) s = .next { s with answers := s.answers ++ [specMemRead s.dev a.toNat] }

/-- R38, whole: HOST_WR performs `MemWrite(a, 1, v)`, and at CMD runs the command. -/
def Obligations.HostWriteEffect : Prop := ∀ (a : Addr) (v : Byte) (s : State),
  exec (.hostWr a v) s =
    if a.toNat = 0x100 then exec (decodeCommand v) s else .next { s with dev := specMemWrite s.dev a.toNat v }

/-- R36, whole: reserved addresses read 0x00; writes to reserved and read-only addresses have no effect at all. -/
def Obligations.ReservedAndReadOnlyAddresses : Prop := ∀ (a : Addr) (v : Byte) (s : State),
  (ReservedAddr a.toNat → exec (.hostRd a) s = .next { s with answers := s.answers ++ [0x00#8] }) ∧
  (ReservedAddr a.toNat ∨ ReadOnlyAddr a.toNat → exec (.hostWr a v) s = .next s)

/-- R27, whole: a read of FRAME[i], an ignored write to it, and the frame after a successful ENCODE. -/
def Obligations.FrameWindow : Prop :=
  (∀ (a : Addr) (v : Byte) (s : State), 0x200 ≤ a.toNat →
    exec (.hostRd a) s = .next { s with answers := s.answers ++ [specFrame s.dev (a.toNat - 0x200)] } ∧
    exec (.hostWr a v) s = .next s) ∧
  ∀ s : State, s.dev.cnt.toNat ≤ 255 → After .encode s fun t =>
    t.dev.frame (4 + t.dev.txLen.toNat) = frameNoCk s.dev.txType (s.dev.pbuf.payload s.dev.cnt.toNat)

/-- R15: CMD reads 0x00 without effect; a write of c runs the command whose code is c, to completion. -/
def Obligations.CmdRegister : Prop := ∀ (s : State) (c : Byte),
  exec (.hostRd 0x100#10) s = .next { s with answers := s.answers ++ [0x00#8] } ∧
  exec (.hostWr 0x100#10 c) s = exec (decodeCommand c) s ∧ exec (decodeWord (packWord true 0x100#10 c)) s = exec (decodeCommand c) s

/-- R43, R44: a host write below FRAME, but to CMD, leaves the byte it wrote at its own address where the address is
writable, and every other byte of the register space and of PBUF as it was. -/
def Obligations.HostWriteThenRead : Prop := ∀ (a : Addr) (v : Byte) (s : State), a.toNat < 0x200 → a.toNat ≠ 0x100 →
  After (.hostWr a v) s fun t =>
    t.dev.memRead a = (if ReservedAddr a.toNat ∨ ReadOnlyAddr a.toNat then s.dev.memRead a else v) ∧
    (∀ b : Addr, b ≠ a → b.toNat < 0x200 → t.dev.memRead b = s.dev.memRead b) ∧
    (∀ j, j ≠ a.toNat → t.dev.pbuf.read j = s.dev.pbuf.read j) ∧
    t.dev.status = s.dev.status ∧ t.answers = s.answers ∧ t.script = s.script

/-- R40, R41: 16-bit registers have their low byte at the lower address; the two halves of CNT may be written in either
order; DECODE takes RX_CK from header byte 4 (low) and 5 (high). -/
def Obligations.SixteenBitRegistersAreLittleEndian : Prop := ∀ (s : State) (lo hi : Byte),
  AfterAll [.hostWr 0x104#10 lo, .hostWr 0x105#10 hi] s (fun t =>
    t = { s with dev := { s.dev with cnt := BitVec.ofNat 16 (hi.toNat * 256 + lo.toNat) } }) ∧
  AfterAll [.hostWr 0x105#10 hi, .hostWr 0x104#10 lo] s (fun t =>
    t = { s with dev := { s.dev with cnt := BitVec.ofNat 16 (hi.toNat * 256 + lo.toNat) } }) ∧
  AfterAll [.hostRd 0x104#10, .hostRd 0x105#10, .hostRd 0x11A#10, .hostRd 0x11B#10, .hostRd 0x11C#10, .hostRd 0x11D#10] s
    (fun t => ∃ c0 c1 r0 r1 k0 k1 : Byte, t.answers = s.answers ++ [c0, c1, r0, r1, k0, k1] ∧
      s.dev.cnt.toNat = c1.toNat * 256 + c0.toNat ∧ s.dev.rxCk.toNat = r1.toNat * 256 + r0.toNat ∧
      s.dev.ckCalc.toNat = k1.toNat * 256 + k0.toNat) ∧
  (SyncAt s.dev → AfterAll [.decode, .hostRd 0x11A#10, .hostRd 0x11B#10] s fun t =>
    t.answers = s.answers ++ [s.dev.rxhdr.b4, s.dev.rxhdr.b5])

/-- R14, whole: the host reads and writes every byte of PBUF, no command writes it, no command reads PBUF[255], and its
reset contents are the free `pbuf_init`. -/
def Obligations.PayloadBuffer : Prop :=
  (∀ (a : Addr) (v : Byte) (s : State), a.toNat ≤ 0xFF →
    exec (.hostRd a) s = .next { s with answers := s.answers ++ [s.dev.pbuf.read a.toNat] } ∧
    After (.hostWr a v) s fun t => t = { s with dev := { s.dev with pbuf := t.dev.pbuf } } ∧
      ∀ j, t.dev.pbuf.read j = if j = a.toNat then v else s.dev.pbuf.read j) ∧
  (∀ (i : Instr) (s : State) (v : Byte), IsCommand i → After i s fun t =>
    t.dev.pbuf = s.dev.pbuf ∧
    exec i { s with dev := { s.dev with pbuf := s.dev.pbuf.write 255 v } } =
      .next { t with dev := { t.dev with pbuf := t.dev.pbuf.write 255 v } }) ∧
  ∀ j, State.reset.dev.pbuf.read j = Config.pbufInit State.reset.dev.pbuf.fill j

/-- R39: PBUF[j] is the byte the host last wrote there, whatever else the host did, or what it held before; after a
reset that is the free `pbuf_init[j]`, whatever its value. -/
def Obligations.PbufHoldsTheLastWrite : Prop := ∀ (is : List Instr) (j : Nat), (∀ i ∈ is, i.WellFormed) → j < 256 →
  (∀ s : State, AfterAll is s fun t => t.dev.pbuf.read j = lastPbufWrite j is (s.dev.pbuf.read j)) ∧
  AfterAll is State.reset fun t => t.dev.pbuf.read j = lastPbufWrite j is (Config.pbufInit State.reset.dev.pbuf.fill j)

/-- R22 and R28, whole: the host's other inputs, TX_TYPE and RXHDR: read and written by the host, written by no command,
read by ENCODE and FRAME_CK, and by DECODE. -/
def Obligations.TxTypeAndRxhdr : Prop := ∀ (s : State) (v : Byte),
  exec (.hostRd 0x102#10) s = .next { s with answers := s.answers ++ [s.dev.txType] } ∧
  exec (.hostWr 0x102#10 v) s = .next { s with dev := { s.dev with txType := v } } ∧
  (∀ a : Addr, 0x110 ≤ a.toNat → a.toNat ≤ 0x115 →
    exec (.hostRd a) s = .next { s with answers := s.answers ++ [s.dev.rxhdr.get (a.toNat - 0x110)] } ∧
    After (.hostWr a v) s fun t => t = { s with dev := { s.dev with rxhdr := t.dev.rxhdr } } ∧
      ∀ k < 6, t.dev.rxhdr.get k = if k = a.toNat - 0x110 then v else s.dev.rxhdr.get k) ∧
  (∀ i : Instr, IsCommand i → After i s fun t => t.dev.txType = s.dev.txType ∧ t.dev.rxhdr = s.dev.rxhdr) ∧
  (s.dev.cnt.toNat ≤ 255 → After .encode s (fun t => t.dev.txhdr.b2 = s.dev.txType) ∧
    After .frameCk s fun t => t.dev.txhdr.b2 = s.dev.txType) ∧
  (SyncAt s.dev → After .decode s fun t => t.dev.rxType = s.dev.rxhdr.b2 ∧ t.dev.rxLen = s.dev.rxhdr.b3) ∧
  State.reset.dev.txType = 0#8 ∧ State.reset.dev.rxhdr = ⟨0#8, 0#8, 0#8, 0#8, 0#8, 0#8⟩

/-! ### STATUS -/

/-- R16: the byte STATUS reads as, and that the host can write no field. -/
def Obligations.StatusByteLayout : Prop := ∀ (s : State) (v : Byte),
  (After (.hostRd 0x101#10) s fun t => t.dev = s.dev ∧ ∃ b : Byte, t.answers = s.answers ++ [b] ∧
    b.toNat = s.dev.status.err.toNat + 16 * s.dev.status.hdrValid.toNat + 32 * s.dev.status.payloadOk.toNat +
      64 * s.dev.status.txValid.toNat + 128 * s.dev.status.anyErr.toNat) ∧
  exec (.hostWr 0x101#10 v) s = .next s

/-- R18, whole: who writes HDR_VALID, and that VERIFY reads it. -/
def Obligations.HdrValidWriters : Prop := ∀ s : State,
  After .decode s (fun t => t.dev.status.hdrValid = true ↔ SyncAt s.dev) ∧
  After .clear s (fun t => t.dev.status.hdrValid = false) ∧ State.reset.dev.status.hdrValid = false ∧
  (∀ i : Instr, i.WellFormed → i ≠ .decode → i ≠ .clear →
    After i s fun t => t.dev.status.hdrValid = s.dev.status.hdrValid) ∧
  After .verify s (fun t => t.dev.status.err = 5#4 ↔ s.dev.status.hdrValid = false)

/-- R19, whole: who writes PAYLOAD_OK. -/
def Obligations.PayloadOkWriters : Prop := ∀ s : State,
  After .verify s (fun t => t.dev.status.payloadOk = true ↔ t.dev.status.err = 0#4) ∧
  After .decode s (fun t => t.dev.status.payloadOk = false) ∧
  After .clear s (fun t => t.dev.status.payloadOk = false) ∧ State.reset.dev.status.payloadOk = false ∧
  ∀ i : Instr, i.WellFormed → i ≠ .verify → i ≠ .decode → i ≠ .clear →
    After i s fun t => t.dev.status.payloadOk = s.dev.status.payloadOk

/-- R20, whole: who writes TX_VALID, and that FRAME reads it. -/
def Obligations.TxValidWriters : Prop := ∀ s : State,
  (∀ i : Instr, i = .encode ∨ i = .frameCk → After i s fun t =>
    (t.dev.status.txValid = true ↔ t.dev.status.err = 0#4) ∧
    (t.dev.status.txValid = false ↔ t.dev.status.err = 4#4)) ∧
  After .clear s (fun t => t.dev.status.txValid = false) ∧ State.reset.dev.status.txValid = false ∧
  (∀ i : Instr, i.WellFormed → i ≠ .encode → i ≠ .frameCk → i ≠ .clear →
    After i s fun t => t.dev.status.txValid = s.dev.status.txValid) ∧
  (s.dev.status.txValid = false → ∀ a : Addr, 0x200 ≤ a.toNat →
    exec (.hostRd a) s = .next { s with answers := s.answers ++ [0x00#8] })

/-- R21, whole: ANY_ERR is set by any failing command, kept by a successful one, cleared by CLEAR and reset alone. -/
def Obligations.AnyErrIsSticky : Prop := ∀ s : State,
  (∀ i : Instr, IsCommand i → i ≠ .clear → After i s fun t =>
    t.dev.status.anyErr = (s.dev.status.anyErr || decide (t.dev.status.err ≠ 0#4))) ∧
  After .clear s (fun t => t.dev.status.anyErr = false ∧ t.dev.status.err = 0#4) ∧
  State.reset.dev.status.anyErr = false

/-! ### ENCODE and the transmit registers -/

/-- R61, whole: ENCODE's encoding, its effect on success and on failure, nothing else changed, and the frame it makes,
which stays until the next ENCODE, FRAME_CK or CLEAR for as long as the host leaves the payload unchanged. -/
def Obligations.EncodeEffect : Prop :=
  (Pseudo.encode.words = some [0x50001#19] ∧ decodeWord 0x50001#19 = .encode) ∧ ∀ s : State,
  (255 < s.dev.cnt.toNat → exec .encode s =
    .next { s with dev := { s.dev with status := Status.failed { s.dev.status with txValid := false } 4#4 } }) ∧
  (s.dev.cnt.toNat ≤ 255 →
    exec .encode s = .next { s with dev := { s.dev with
      txhdr := ⟨0xAE#8, 0xC1#8, s.dev.txType, BitVec.ofNat 8 s.dev.cnt.toNat, 0x00#8, 0x00#8⟩
      txHlen := 4#8
      txLen := BitVec.ofNat 8 s.dev.cnt.toNat
      status := { s.dev.status with txValid := true, err := 0#4 } } } ∧
    After .encode s fun t =>
      t.dev.frame (4 + s.dev.cnt.toNat) = frameNoCk s.dev.txType (s.dev.pbuf.payload s.dev.cnt.toNat) ∧
      ∀ k, 4 + s.dev.cnt.toNat ≤ k → t.dev.frameByte k = 0x00#8) ∧
  ∀ is : List Instr, s.dev.cnt.toNat ≤ 255 → (∀ i ∈ is, i.WellFormed ∧ i ≠ .encode ∧ i ≠ .frameCk ∧ i ≠ .clear) →
    AfterAll (.encode :: is) s fun t =>
      ((∀ j < s.dev.cnt.toNat, t.dev.pbuf.read j = s.dev.pbuf.read j) →
        t.dev.frame (4 + s.dev.cnt.toNat) = frameNoCk s.dev.txType (s.dev.pbuf.payload s.dev.cnt.toNat)) ∧
      ∀ k, 4 + s.dev.cnt.toNat ≤ k → t.dev.frameByte k = 0x00#8

/-- R24, R25, R26, whole: TX_HLEN, TX_LEN and TXHDR after each command, after reset, and what holds of them always. -/
def Obligations.TransmitRegisters : Prop := ∀ s : State,
  (s.dev.cnt.toNat ≤ 255 →
    After .encode s (fun t => t.dev.txHlen = 4#8 ∧ t.dev.txLen = BitVec.ofNat 8 s.dev.cnt.toNat ∧
      t.dev.txhdr = ⟨0xAE#8, 0xC1#8, s.dev.txType, BitVec.ofNat 8 s.dev.cnt.toNat, 0x00#8, 0x00#8⟩) ∧
    After .frameCk s (fun t => t.dev.txHlen = 6#8 ∧ t.dev.txLen = BitVec.ofNat 8 s.dev.cnt.toNat ∧
      t.dev.txhdr = ⟨0xAF#8, 0xC1#8, s.dev.txType, BitVec.ofNat 8 s.dev.cnt.toNat,
        lo8 (s.dev.pbuf.sum16 s.dev.cnt.toNat), hi8 (s.dev.pbuf.sum16 s.dev.cnt.toNat)⟩)) ∧
  (∀ i : Instr, i.WellFormed → (i = .encode ∨ i = .frameCk → 255 < s.dev.cnt.toNat) → i ≠ .clear →
    After i s fun t => t.dev.txHlen = s.dev.txHlen ∧ t.dev.txLen = s.dev.txLen ∧ t.dev.txhdr = s.dev.txhdr) ∧
  After .clear s (fun t => t.dev.txHlen = 0#8 ∧ t.dev.txLen = 0#8 ∧ t.dev.txhdr = ⟨0#8, 0#8, 0#8, 0#8, 0#8, 0#8⟩) ∧
  (State.reset.dev.txHlen = 0#8 ∧ State.reset.dev.txLen = 0#8 ∧
    State.reset.dev.txhdr = ⟨0#8, 0#8, 0#8, 0#8, 0#8, 0#8⟩) ∧
  (∀ i : Instr, (s.dev.txHlen = 0#8 ∨ s.dev.txHlen = 4#8 ∨ s.dev.txHlen = 6#8) →
    After i s fun t => t.dev.txHlen = 0#8 ∨ t.dev.txHlen = 4#8 ∨ t.dev.txHlen = 6#8) ∧
  (∀ i : Instr, (s.dev.status.txValid = true → s.dev.txLen = s.dev.txhdr.b3) →
    After i s fun t => t.dev.status.txValid = true → t.dev.txLen = t.dev.txhdr.b3) ∧
  (s.dev.txHlen = 4#8 → ∀ (x y : Byte) (k : Nat),
    { s.dev with txhdr := { s.dev.txhdr with b4 := x, b5 := y } }.frameByte k = s.dev.frameByte k) ∧
  ∀ a : Addr, 0x106 ≤ a.toNat → a.toNat ≤ 0x10D → After (.hostRd a) s fun t => t.answers = s.answers ++
    [if a.toNat = 0x106 then s.dev.txHlen else if a.toNat = 0x107 then s.dev.txLen else s.dev.txhdr.get (a.toNat - 0x108)]

/-- R62, R91: TXHDR, TX_HLEN and TX_LEN are latched, and no host write but a command changes them; the payload is not,
and a visible FRAME shows a byte written to PBUF after the command. -/
def Obligations.HeaderLatchedPayloadLive : Prop := ∀ (s : State) (v : Byte),
  (∀ a : Addr, a.toNat ≠ 0x100 → After (.hostWr a v) s fun t =>
    t.dev.txhdr = s.dev.txhdr ∧ t.dev.txHlen = s.dev.txHlen ∧ t.dev.txLen = s.dev.txLen) ∧
  ∀ j : Nat, s.dev.status.txValid = true → s.dev.txHlen.toNat ≤ 6 → j < s.dev.txLen.toNat →
    AfterAll [.hostWr (BitVec.ofNat 10 j) v, .hostRd (BitVec.ofNat 10 (0x200 + s.dev.txHlen.toNat + j))] s fun t =>
      t.answers = s.answers ++ [v]

/-- R61 and R72 (after success), R91: the frame stays until the next ENCODE, FRAME_CK or CLEAR, whatever else the host
does: its header is as built, with the checksum of that time, and its payload is PBUF as it is now. -/
def Obligations.FrameStaysUntilTheNextBuild : Prop := ∀ (s : State) (is : List Instr), s.dev.cnt.toNat ≤ 255 →
  (∀ i ∈ is, i.WellFormed ∧ i ≠ .encode ∧ i ≠ .frameCk ∧ i ≠ .clear) →
  AfterAll (.encode :: is) s (fun t =>
    t.dev.frame (4 + s.dev.cnt.toNat) = frameNoCk s.dev.txType (t.dev.pbuf.payload s.dev.cnt.toNat)) ∧
  AfterAll (.frameCk :: is) s (fun t =>
    t.dev.frame (6 + s.dev.cnt.toNat) =
      frameCk s.dev.txType (s.dev.pbuf.sum16 s.dev.cnt.toNat) (t.dev.pbuf.payload s.dev.cnt.toNat))

/-- R53, R54, R55: the length found from the header alone is the length of the frame. -/
def Obligations.FrameLengthFromItsHeader : Prop := ∀ (t : Byte) (ck : Half) (p : List Byte), p.length ≤ 255 →
  frameLength (frameNoCk t p) = some (frameNoCk t p).length ∧ (frameNoCk t p).length = 4 + p.length ∧
  frameLength (frameCk t ck p) = some (frameCk t ck p).length ∧ (frameCk t ck p).length = 6 + p.length

/-! ### DECODE and the receive registers -/

/-- R64, whole: DECODE's encoding, its effect on success and on failure, nothing else changed, and that VERIFY refuses
the header kept by a failing DECODE. -/
def Obligations.DecodeEffect : Prop :=
  (Pseudo.decode.words = some [0x50002#19] ∧ decodeWord 0x50002#19 = .decode) ∧ ∀ s : State,
  (SyncAt s.dev → exec .decode s = .next { s with dev := { s.dev with
    rxType := s.dev.rxhdr.b2
    rxLen := s.dev.rxhdr.b3
    rxCk := BitVec.ofNat 16 (s.dev.rxhdr.b5.toNat * 256 + s.dev.rxhdr.b4.toNat)
    status := { s.dev.status with payloadOk := false, hdrValid := true, err := 0#4 } } }) ∧
  (¬SyncAt s.dev → exec .decode s = .next { s with dev := { s.dev with
    status := Status.failed { s.dev.status with payloadOk := false, hdrValid := false } 1#4 } }) ∧
  (¬SyncAt s.dev → AfterAll [.decode, .verify] s fun t => t.dev.status.err = 5#4 ∧
    t.dev.rxType = s.dev.rxType ∧ t.dev.rxLen = s.dev.rxLen ∧ t.dev.rxCk = s.dev.rxCk)

/-- R63, whole: sync detection is exact; the request marker and the swapped marker are rejected; RXHDR is not searched
or shifted. -/
def Obligations.SyncMarkerIsExact : Prop := ∀ s : State,
  After .decode s (fun t => (t.dev.status.err = 0#4 ↔ SyncAt s.dev) ∧ (t.dev.status.err = 1#4 ↔ ¬SyncAt s.dev) ∧
    t.dev.rxhdr = s.dev.rxhdr) ∧
  (s.dev.rxhdr.b0 = 0xAE#8 ∧ s.dev.rxhdr.b1 = 0xC1#8 → After .decode s fun t => t.dev.status.err = 1#4) ∧
  (s.dev.rxhdr.b0 = 0xC1#8 ∧ s.dev.rxhdr.b1 = 0xAF#8 → After .decode s fun t => t.dev.status.err = 1#4)

/-- R29, R30, R31, whole: RX_TYPE, RX_LEN and RX_CK after every transaction and after reset, and as the host reads
them. -/
def Obligations.ReceiveRegisters : Prop := ∀ s : State,
  (∀ i : Instr, i.WellFormed → After i s fun t =>
    if i = .decode ∧ SyncAt s.dev then
      t.dev.rxType = s.dev.rxhdr.b2 ∧ t.dev.rxLen = s.dev.rxhdr.b3 ∧
        t.dev.rxCk.toNat = s.dev.rxhdr.b5.toNat * 256 + s.dev.rxhdr.b4.toNat
    else if i = .clear then t.dev.rxType = 0#8 ∧ t.dev.rxLen = 0#8 ∧ t.dev.rxCk = 0#16
    else t.dev.rxType = s.dev.rxType ∧ t.dev.rxLen = s.dev.rxLen ∧ t.dev.rxCk = s.dev.rxCk) ∧
  (State.reset.dev.rxType = 0#8 ∧ State.reset.dev.rxLen = 0#8 ∧ State.reset.dev.rxCk = 0#16) ∧
  AfterAll [.hostRd 0x118#10, .hostRd 0x119#10, .hostRd 0x11A#10, .hostRd 0x11B#10] s (fun t =>
    t.answers = s.answers ++ [s.dev.rxType, s.dev.rxLen, BitVec.ofNat 8 (s.dev.rxCk.toNat % 256),
      BitVec.ofNat 8 (s.dev.rxCk.toNat / 256)]) ∧
  (s.dev.status.hdrValid = true → After .verify s fun t =>
    (t.dev.status.err = 3#4 ↔ s.dev.cnt.toNat ≠ s.dev.rxLen.toNat) ∧
    (t.dev.status.err = 2#4 ↔ s.dev.cnt.toNat = s.dev.rxLen.toNat ∧ s.dev.pbuf.sum16 s.dev.rxLen.toNat ≠ s.dev.rxCk))

/-! ### VERIFY, FRAME_CK and the checksum -/

/-- R70, whole: VERIFY's encoding and its four outcomes, each with nothing else changed, and that PBUF from RX_LEN on is
never read. -/
def Obligations.VerifyEffect : Prop :=
  (Pseudo.verify.words = some [0x50003#19] ∧ decodeWord 0x50003#19 = .verify) ∧ ∀ s : State,
  (s.dev.status.hdrValid = false → exec .verify s =
    .next { s with dev := { s.dev with status := Status.failed { s.dev.status with payloadOk := false } 5#4 } }) ∧
  (s.dev.status.hdrValid = true → s.dev.cnt.toNat ≠ s.dev.rxLen.toNat → exec .verify s =
    .next { s with dev := { s.dev with status := Status.failed { s.dev.status with payloadOk := false } 3#4 } }) ∧
  (s.dev.status.hdrValid = true → s.dev.cnt.toNat = s.dev.rxLen.toNat →
    s.dev.pbuf.sum16 s.dev.rxLen.toNat = s.dev.rxCk → exec .verify s =
      .next { s with dev := { s.dev with
        ckCalc := s.dev.pbuf.sum16 s.dev.rxLen.toNat
        status := { s.dev.status with payloadOk := true, err := 0#4 } } }) ∧
  (s.dev.status.hdrValid = true → s.dev.cnt.toNat = s.dev.rxLen.toNat →
    s.dev.pbuf.sum16 s.dev.rxLen.toNat ≠ s.dev.rxCk → exec .verify s =
      .next { s with dev := { s.dev with
        ckCalc := s.dev.pbuf.sum16 s.dev.rxLen.toNat
        status := Status.failed { s.dev.status with payloadOk := false } 2#4 } }) ∧
  ∀ m : Memory, (∀ j < s.dev.rxLen.toNat, m.read j = s.dev.pbuf.read j) → After .verify s fun t =>
    exec .verify { s with dev := { s.dev with pbuf := m } } = .next { t with dev := { t.dev with pbuf := m } }

/-- R72, whole: FRAME_CK's encoding, its effect on success and on failure, nothing else changed, the frame it makes, and
that a later host write to PBUF is not reflected in TXHDR. -/
def Obligations.FrameCkEffect : Prop :=
  (Pseudo.frameck.words = some [0x50004#19] ∧ decodeWord 0x50004#19 = .frameCk) ∧ ∀ s : State,
  (255 < s.dev.cnt.toNat → exec .frameCk s =
    .next { s with dev := { s.dev with status := Status.failed { s.dev.status with txValid := false } 4#4 } }) ∧
  (s.dev.cnt.toNat ≤ 255 →
    let ck := s.dev.pbuf.sum16 s.dev.cnt.toNat
    exec .frameCk s = .next { s with dev := { s.dev with
      txhdr := ⟨0xAF#8, 0xC1#8, s.dev.txType, BitVec.ofNat 8 s.dev.cnt.toNat, BitVec.ofNat 8 (ck.toNat % 256),
        BitVec.ofNat 8 (ck.toNat / 256)⟩
      txHlen := 6#8
      txLen := BitVec.ofNat 8 s.dev.cnt.toNat
      ckCalc := ck
      status := { s.dev.status with txValid := true, err := 0#4 } } } ∧
    After .frameCk s fun t =>
      t.dev.frame (6 + s.dev.cnt.toNat) = frameCk s.dev.txType ck (s.dev.pbuf.payload s.dev.cnt.toNat) ∧
      ∀ (a : Addr) (v : Byte), a.toNat ≤ 0xFF → After (.hostWr a v) t fun u => u.dev.txhdr = t.dev.txhdr)

/-- R32, whole: CK_CALC after every transaction and after reset, and as the host reads it. -/
def Obligations.CkCalcWriters : Prop := ∀ s : State,
  (∀ i : Instr, i.WellFormed → After i s fun t => t.dev.ckCalc =
    if i = .verify ∧ (t.dev.status.err = 0#4 ∨ t.dev.status.err = 2#4) then s.dev.pbuf.sum16 s.dev.rxLen.toNat
    else if i = .frameCk ∧ t.dev.status.err = 0#4 then s.dev.pbuf.sum16 s.dev.cnt.toNat
    else if i = .clear then 0#16
    else s.dev.ckCalc) ∧
  State.reset.dev.ckCalc = 0#16 ∧
  AfterAll [.hostRd 0x11C#10, .hostRd 0x11D#10] s fun t => t.answers = s.answers ++
    [BitVec.ofNat 8 (s.dev.ckCalc.toNat % 256), BitVec.ofNat 8 (s.dev.ckCalc.toNat / 256)]

/-- R67, whole: Sum16 is the sum of the payload bytes mod 2^16, added in any order. -/
def Obligations.Sum16IsThePayloadSum : Prop := ∀ (m : Memory) (n : Nat), n ≤ 255 →
  (m.sum16 n).toNat = (Finset.sum (Finset.range n) fun i => (m.read i).toNat) % 2 ^ 16 ∧
  (∀ l : List Nat, l.Perm (List.range n) → (m.sum16 n).toNat = (l.map fun i => (m.read i).toNat).sum % 2 ^ 16) ∧
  m.sum16 0 = 0#16

/-- R68: no sum the block can take overflows, so a checksum above 0xFE01 never verifies. -/
def Obligations.ChecksumNeverOverflows : Prop :=
  (∀ (m : Memory) (n : Nat), n ≤ 255 → m.byteSum n ≤ 0xFE01 ∧ (m.sum16 n).toNat = m.byteSum n) ∧
  ∀ s : State, 0xFE01 < s.dev.rxCk.toNat → After .verify s fun t => t.dev.status.err ≠ 0#4 ∧ t.dev.status.payloadOk = false

/-- R69: an accumulator of 16 bits or more, reduced at every addition, gives the same checksum. -/
def Obligations.AccumulatorWidthIsImmaterial : Prop := ∀ (m : Memory) (n w : Nat), 16 ≤ w →
  ((m.payload n).foldl (fun acc b => (acc + b.toNat) % 2 ^ w) 0) % 2 ^ 16 = (m.sum16 n).toNat

/-- R70 (PBUF[RX_LEN..255] is never read), R14: a byte of PBUF outside the payload a command sums has no influence on
what the command does. -/
def Obligations.CommandsReadOnlyTheirPayload : Prop := ∀ (i : Instr) (s : State) (k : Nat) (v : Byte), IsCommand i →
  (i = .verify → s.dev.rxLen.toNat ≤ k) → (i = .frameCk → s.dev.cnt.toNat ≤ 255 → s.dev.cnt.toNat ≤ k) →
  After i s fun t => exec i { s with dev := { s.dev with pbuf := s.dev.pbuf.write k v } } =
    .next { t with dev := { t.dev with pbuf := t.dev.pbuf.write k v } }

/-- R71, first part: after a VERIFY that succeeds, a change of one payload byte is detected. -/
def Obligations.SingleByteMutationIsDetected : Prop := ∀ (s t : State) (j : Nat) (v : Byte),
  exec .verify s = .next t → t.dev.status.err = 0#4 → j < t.dev.rxLen.toNat → v ≠ t.dev.pbuf.read j →
  AfterAll [.hostWr (BitVec.ofNat 10 j) v, .verify] t fun u =>
    u.dev.status.err = 2#4 ∧ u.dev.status.payloadOk = false ∧ u.dev.status.anyErr = true

/-- R71, last part: a reordering of the payload, or two changes that cancel, is not detected. -/
def Obligations.ReorderingIsNotDetected : Prop := ∀ s t : State, exec .verify s = .next t → t.dev.status.err = 0#4 →
  (∀ m : Memory, (m.payload t.dev.rxLen.toNat).Perm (t.dev.pbuf.payload t.dev.rxLen.toNat) →
    After .verify { t with dev := { t.dev with pbuf := m } } fun u => u.dev.status = t.dev.status) ∧
  ∀ (j k : Nat) (v w : Byte), j < t.dev.rxLen.toNat → k < t.dev.rxLen.toNat → j ≠ k →
    v.toNat + w.toNat = (t.dev.pbuf.read j).toNat + (t.dev.pbuf.read k).toNat →
    AfterAll [.hostWr (BitVec.ofNat 10 j) v, .hostWr (BitVec.ofNat 10 k) w, .verify] t fun u =>
      u.dev.status = t.dev.status

/-! ### CLEAR, reserved codes, errors -/

/-- R76, whole: CLEAR's encoding and effect, and what follows it: nothing but a successful DECODE ends the time in which
VERIFY fails with SEQUENCE_ERROR. -/
def Obligations.ClearEffect : Prop :=
  (Pseudo.clear.words = some [0x50005#19] ∧ decodeWord 0x50005#19 = .clear) ∧ ∀ s : State,
  exec .clear s = .next { s with dev := { s.dev with
    status := ⟨0#4, false, false, false, false⟩
    txhdr := ⟨0#8, 0#8, 0#8, 0#8, 0#8, 0#8⟩
    txHlen := 0#8
    txLen := 0#8
    rxType := 0#8
    rxLen := 0#8
    rxCk := 0#16
    ckCalc := 0#16 } } ∧
  exec .clear State.reset = .next State.reset ∧
  After .clear s (fun t => (∀ k, t.dev.frameByte k = 0x00#8) ∧ t.dev.status.hdrValid = false) ∧
  (s.dev.status.hdrValid = false → After .verify s (fun t => t.dev.status.err = 5#4) ∧
    ∀ i : Instr, i.WellFormed → After i s fun t =>
      t.dev.status.hdrValid = true → i = .decode ∧ t.dev.status.err = 0#4)

/-- R77, whole: a reserved code sets ERR and ANY_ERR and nothing else; code 0x00 and codes with a defined command's low
bits are reserved. -/
def Obligations.IllegalCommandEffect : Prop := ∀ (c : Byte) (s : State), ReservedCode c →
  decodeCommand c = .illegalCmd c ∧
  exec (.illegalCmd c) s = .next { s with dev := { s.dev with status := Status.failed s.dev.status 6#4 } } ∧
  exec (.hostWr 0x100#10 c) s = .next { s with dev := { s.dev with status := Status.failed s.dev.status 6#4 } }

/-- R74, R75, whole: the epilogues, seen from every command. -/
def Obligations.CommandEpilogues : Prop := ∀ (i : Instr) (s : State), IsCommand i → After i s fun t =>
  (t.dev.status.err = 0#4 → i ≠ .clear → t.dev.status.anyErr = s.dev.status.anyErr) ∧
  (t.dev.status.err ≠ 0#4 → t.dev.status.anyErr = true ∧
    (i = .decode → t.dev.status.hdrValid = false) ∧ (i = .verify → t.dev.status.payloadOk = false) ∧
    (i = .encode ∨ i = .frameCk → t.dev.status.txValid = false) ∧
    ((∃ c, i = .illegalCmd c) → t.dev.status.hdrValid = s.dev.status.hdrValid ∧
      t.dev.status.payloadOk = s.dev.status.payloadOk ∧ t.dev.status.txValid = s.dev.status.txValid) ∧
    t.dev = { s.dev with status := t.dev.status, ckCalc := t.dev.ckCalc } ∧
    (t.dev.status.err ≠ 2#4 → t.dev.ckCalc = s.dev.ckCalc))

/-- R80, whole: every error code, exactly when it is raised and by what, with the state it records; and that no bus
transaction fails. -/
def Obligations.ErrorCauses : Prop :=
  (∀ (i : Instr) (s : State), IsCommand i → After i s fun t =>
    (t.dev.status.err = 1#4 ↔ i = .decode ∧ ¬SyncAt s.dev) ∧
    (t.dev.status.err = 2#4 ↔ i = .verify ∧ s.dev.status.hdrValid = true ∧ s.dev.cnt.toNat = s.dev.rxLen.toNat ∧
      s.dev.pbuf.sum16 s.dev.rxLen.toNat ≠ s.dev.rxCk) ∧
    (t.dev.status.err = 3#4 ↔ i = .verify ∧ s.dev.status.hdrValid = true ∧ s.dev.cnt.toNat ≠ s.dev.rxLen.toNat) ∧
    (t.dev.status.err = 4#4 ↔ (i = .encode ∨ i = .frameCk) ∧ 255 < s.dev.cnt.toNat) ∧
    (t.dev.status.err = 5#4 ↔ i = .verify ∧ s.dev.status.hdrValid = false) ∧
    (t.dev.status.err = 6#4 ↔ ∃ c, i = .illegalCmd c) ∧
    (t.dev.status.err = 1#4 → t.dev.status.hdrValid = false ∧ t.dev.status.payloadOk = false ∧
      t.dev.rxhdr = s.dev.rxhdr ∧ t.dev.rxType = s.dev.rxType ∧ t.dev.rxLen = s.dev.rxLen ∧ t.dev.rxCk = s.dev.rxCk) ∧
    (t.dev.status.err = 2#4 → t.dev.ckCalc = s.dev.pbuf.sum16 s.dev.rxLen.toNat ∧ t.dev.rxCk = s.dev.rxCk ∧
      t.dev.status.payloadOk = false) ∧
    (t.dev.status.err = 3#4 → t.dev.status.payloadOk = false ∧ t.dev.ckCalc = s.dev.ckCalc ∧ t.dev.cnt = s.dev.cnt ∧
      t.dev.rxLen = s.dev.rxLen) ∧
    (t.dev.status.err = 4#4 → t.dev.status.txValid = false ∧ t.dev.txhdr = s.dev.txhdr ∧ t.dev.txHlen = s.dev.txHlen ∧
      t.dev.txLen = s.dev.txLen ∧ t.dev.cnt = s.dev.cnt) ∧
    (t.dev.status.err = 5#4 → t.dev.status.payloadOk = false) ∧
    (t.dev.status.err = 6#4 → t.dev = { s.dev with status := Status.failed s.dev.status 6#4 })) ∧
  ∀ (i : Instr) (s : State), ∃ t, exec i s = .next t

/-- R82: one code per command, and VERIFY's order; a count or header that is wrong computes no sum. -/
def Obligations.ErrorPriority : Prop := ∀ s : State,
  (s.dev.status.hdrValid = false → After .verify s fun t => t.dev.status.err = 5#4 ∧ t.dev.ckCalc = s.dev.ckCalc) ∧
  (s.dev.status.hdrValid = true → s.dev.cnt.toNat ≠ s.dev.rxLen.toNat →
    After .verify s fun t => t.dev.status.err = 3#4 ∧ t.dev.ckCalc = s.dev.ckCalc) ∧
  (s.dev.status.hdrValid = true → s.dev.cnt.toNat = s.dev.rxLen.toNat →
    s.dev.pbuf.sum16 s.dev.rxLen.toNat ≠ s.dev.rxCk → After .verify s fun t => t.dev.status.err = 2#4) ∧
  After .encode s (fun t => t.dev.status.err = 0#4 ∨ t.dev.status.err = 4#4) ∧
  After .frameCk s (fun t => t.dev.status.err = 0#4 ∨ t.dev.status.err = 4#4) ∧
  After .decode s (fun t => t.dev.status.err = 0#4 ∨ t.dev.status.err = 1#4) ∧
  ∀ c : Byte, After (.illegalCmd c) s fun t => t.dev.status.err = 6#4

/-! ### Laws over several transactions -/

/-- R43: whatever is not a read, done twice with nothing between, leaves exactly the state it left once; and a read
leaves the PFCV as it was. -/
def Obligations.TransactionTwiceIsOnce : Prop := ∀ (i : Instr) (s : State),
  ((∀ a, i ≠ .hostRd a) → After i s fun t => exec i t = .next t) ∧
  ∀ a, i = .hostRd a → After i s fun t => t.dev = s.dev

/-- R65: a frame's type and length come back through DECODE. -/
def Obligations.EncodeDecodeRoundTrip : Prop := ∀ (s : State) (c0 c1 : Byte), s.dev.cnt.toNat ≤ 255 →
  After .encode s fun t =>
    AfterAll (loadRxhdr 0xAF#8 0xC1#8 (t.dev.memRead 0x202#10) (t.dev.memRead 0x203#10) c0 c1 ++ [.decode]) t fun u =>
      u.dev.status.err = 0#4 ∧ u.dev.rxType = s.dev.txType ∧ u.dev.rxLen.toNat = s.dev.cnt.toNat

/-- R73: what FRAME_CK generates, DECODE and VERIFY accept. -/
def Obligations.GeneratorAndVerifierAgree : Prop := ∀ s : State, s.dev.cnt.toNat ≤ 255 →
  After .frameCk s fun t =>
    AfterAll (loadRxhdr (t.dev.memRead 0x200#10) (t.dev.memRead 0x201#10) (t.dev.memRead 0x202#10)
        (t.dev.memRead 0x203#10) (t.dev.memRead 0x204#10) (t.dev.memRead 0x205#10) ++ [.decode]) t fun u =>
      u.dev.status.err = 0#4 ∧ After .verify u fun v =>
        v.dev.status.err = 0#4 ∧ v.dev.status.payloadOk = true ∧ v.dev.rxType = s.dev.txType ∧
          v.dev.rxLen.toNat = s.dev.cnt.toNat ∧ v.dev.rxCk = v.dev.ckCalc

/-- R94: RX_CK and CK_CALC are written by commands alone, so their halves, read with no CMD write between, are halves of
one value. -/
def Obligations.ReadsWithoutCommandsDoNotTear : Prop := ∀ (is : List Instr) (s : State),
  (∀ i ∈ is, i.WellFormed ∧ ¬IsCommand i) →
  AfterAll is s (fun t => t.dev.rxCk = s.dev.rxCk ∧ t.dev.ckCalc = s.dev.ckCalc ∧ t.dev.status = s.dev.status) ∧
  AfterAll (.hostRd 0x11A#10 :: is ++ [.hostRd 0x11B#10]) s (fun t => ∃ (lo hi : Byte) (mid : List Byte),
    t.answers = s.answers ++ lo :: mid ++ [hi] ∧ s.dev.rxCk.toNat = hi.toNat * 256 + lo.toNat) ∧
  AfterAll (.hostRd 0x11C#10 :: is ++ [.hostRd 0x11D#10]) s (fun t => ∃ (lo hi : Byte) (mid : List Byte),
    t.answers = s.answers ++ lo :: mid ++ [hi] ∧ s.dev.ckCalc.toNat = hi.toNat * 256 + lo.toNat)

/-! ### Invariants -/

/-- R17, R18 to R21, R24 to R26, R68: the invariant of the PFCV is kept by every step, a reset among them. -/
def Obligations.StepKeepsTheInvariant : Prop := ∀ s t : State, s.dev.Inv → step s = .next t → t.dev.Inv

/-- The invariant holds at reset. -/
def Obligations.ResetMeetsTheInvariant : Prop := State.reset.dev.Inv

/-- Log 3: PBUF stays in canonical form, from any state in which it is, whatever else that state holds. -/
def Obligations.StepKeepsPbufCanonical : Prop := ∀ s t : State, s.dev.pbuf.wf = true → step s = .next t →
  t.dev.pbuf.wf = true

/-! ### The assembler -/

/-- R57: the word of a line, what the assembler refuses, and the address of every symbol. -/
def Obligations.AssemblerLines : Prop :=
  (∀ a v : Nat, a ≤ 0x3FF → v ≤ 0xFF →
    (AsmLine.rd (.number a)).word = some (BitVec.ofNat 19 (a * 256)) ∧
    (AsmLine.wr (.number a) v).word = some (BitVec.ofNat 19 (0x40000 + a * 256 + v))) ∧
  (∀ a v : Nat, 0x3FF < a → (AsmLine.rd (.number a)).word = none ∧ (AsmLine.wr (.number a) v).word = none) ∧
  (∀ (x : AsmAddr) (v : Nat), 0xFF < v → (AsmLine.wr x v).word = none) ∧
  (∀ (x : Symbol) (n v : Nat), x.addr = some n →
    n ≤ 0x3FF ∧ (AsmLine.rd (.symbol x)).word = (AsmLine.rd (.number n)).word ∧
      (AsmLine.wr (.symbol x) v).word = (AsmLine.wr (.number n) v).word) ∧
  (∀ i : Nat, (Symbol.pbuf i).addr = (if i ≤ 255 then some i else none) ∧
    (Symbol.txhdr i).addr = (if i ≤ 5 then some (0x108 + i) else none) ∧
    (Symbol.rxhdr i).addr = (if i ≤ 5 then some (0x110 + i) else none) ∧
    (Symbol.frame i).addr = (if i ≤ 511 then some (0x200 + i) else none)) ∧
  [Symbol.cmd, .status, .txType, .cntLo, .cntHi, .txHlen, .txLen, .rxType, .rxLen, .rxCkLo, .rxCkHi, .ckCalcLo,
      .ckCalcHi].map Symbol.addr =
    [0x100, 0x101, 0x102, 0x104, 0x105, 0x106, 0x107, 0x118, 0x119, 0x11A, 0x11B, 0x11C, 0x11D].map some

/-- R58: what the words of each pseudo-instruction do. -/
def Obligations.PseudoInstructionEffects : Prop := ∀ s : State,
  ([Pseudo.encode, .decode, .verify, .frameck, .clear, .rdstat].map Pseudo.words =
    [0x50001#19, 0x50002#19, 0x50003#19, 0x50004#19, 0x50005#19, 0x10100#19].map fun w => some [w]) ∧
  (∀ t : Nat, t ≤ 255 → ∃ ws, (Pseudo.settype t).words = some ws ∧ AfterAll (ws.map decodeWord) s fun u =>
    u = { s with dev := { s.dev with txType := BitVec.ofNat 8 t } }) ∧
  (∀ n : Nat, n ≤ 65535 → ∃ ws, (Pseudo.setcnt n).words = some ws ∧ AfterAll (ws.map decodeWord) s fun u =>
    u = { s with dev := { s.dev with cnt := BitVec.ofNat 16 n } }) ∧
  (∀ h0 h1 h2 h3 h4 h5 : Byte, ∃ ws,
    (Pseudo.ldhdr h0.toNat h1.toNat h2.toNat h3.toNat h4.toNat h5.toNat).words = some ws ∧
    AfterAll (ws.map decodeWord) s fun u =>
      u = { s with dev := { s.dev with rxhdr := ⟨h0, h1, h2, h3, h4, h5⟩ } }) ∧
  (∀ bytes : List Byte, bytes.length ≤ 256 → ∃ ws, (Pseudo.ldpay (bytes.map BitVec.toNat)).words = some ws ∧
    AfterAll (ws.map decodeWord) s fun u => u = { s with dev := { s.dev with pbuf := u.dev.pbuf } } ∧
      ∀ j, u.dev.pbuf.read j = (bytes[j]?).getD (s.dev.pbuf.read j)) ∧
  ∀ m : Nat, m ≤ 512 → ∃ ws, (Pseudo.rdframe m).words = some ws ∧ AfterAll (ws.map decodeWord) s fun u =>
    u = { s with answers := s.answers ++ s.dev.frame m }
end

