-- ==== Sys2Proof/Laws/Bytes.lean ====
section
/-! SUPPORT. The byte halves of a 16-bit value, the bytes of a header, and STATUS's byte as numbers. -/

namespace Sys2Proof.Machine

/-- Concatenation puts its first part above the second (R8). -/
theorem append_toNat {n m : Nat} (x : BitVec n) (y : BitVec m) : (x ++ y).toNat = x.toNat * 2 ^ m + y.toNat := by
  rw [BitVec.toNat_append, Nat.shiftLeft_eq, Nat.mul_comm, ← Nat.two_pow_add_eq_or_of_lt y.isLt]

theorem lo8_toNat (v : Half) : (lo8 v).toNat = v.toNat % 256 := by
  simp [lo8, BitVec.extractLsb'_toNat]

theorem hi8_toNat (v : Half) : (hi8 v).toNat = v.toNat / 256 := by
  have h := v.isLt
  simp only [hi8, BitVec.extractLsb'_toNat, Nat.shiftRight_eq_div_pow]
  omega

theorem le16_toNat (lo hi : Byte) : (le16 lo hi).toNat = hi.toNat * 256 + lo.toNat := append_toNat hi lo

@[simp] theorem lo8_le16 (lo hi : Byte) : lo8 (le16 lo hi) = lo := by
  apply BitVec.eq_of_toNat_eq
  have h := lo.isLt
  rw [lo8_toNat, le16_toNat]
  omega

@[simp] theorem hi8_le16 (lo hi : Byte) : hi8 (le16 lo hi) = hi := by
  apply BitVec.eq_of_toNat_eq
  have h := lo.isLt
  rw [hi8_toNat, le16_toNat]
  omega

@[simp] theorem le16_lo8_hi8 (v : Half) : le16 (lo8 v) (hi8 v) = v := by
  apply BitVec.eq_of_toNat_eq
  rw [le16_toNat, lo8_toNat, hi8_toNat]
  omega

/-- Writing a header byte and reading it, or another one, back. -/
theorem Header.get_set (h : Header) {i j : Nat} (hi : i < 6) (hj : j < 6) (v : Byte) :
    (h.set i v).get j = if i = j then v else h.get j := by
  interval_cases i <;> interval_cases j <;> rfl

theorem Status.toByte_toNat (st : Status) : st.toByte.toNat =
    st.err.toNat + 16 * st.hdrValid.toNat + 32 * st.payloadOk.toNat + 64 * st.txValid.toNat + 128 * st.anyErr.toNat := by
  obtain ⟨err, h, p, t, a⟩ := st
  simp only [Status.toByte, append_toNat, BitVec.toNat_ofBool]
  omega

end Sys2Proof.Machine
end

