-- ==== Sys2Proof/Laws/Decode.lean ====
section
/-! SUPPORT. The fields of a bus word as numbers, and packing and unpacking them (R48). -/

namespace Sys2Proof

open Sys2Proof.Machine

theorem packWord_toNat (writes : Bool) (addr : Addr) (data : Byte) :
    (packWord writes addr data).toNat = writes.toNat * 2 ^ 18 + addr.toNat * 2 ^ 8 + data.toNat := by
  simp only [packWord, append_toNat, BitVec.toNat_ofBool]
  omega

theorem wordAddr_toNat (w : BusWord) : (wordAddr w).toNat = w.toNat / 256 % 1024 := by
  simp [wordAddr, BitVec.extractLsb'_toNat, Nat.shiftRight_eq_div_pow]

theorem wordData_toNat (w : BusWord) : (wordData w).toNat = w.toNat % 256 := by
  simp [wordData, BitVec.extractLsb'_toNat]

theorem wordWrites_eq (w : BusWord) : wordWrites w = decide (262144 ≤ w.toNat) := by
  have h := w.isLt
  simp only [wordWrites, BitVec.getLsbD, Nat.testBit_eq_decide_div_mod_eq, decide_eq_decide]
  omega

section Fields
variable (writes : Bool) (addr : Addr) (data : Byte)

@[simp] theorem wordWrites_packWord : wordWrites (packWord writes addr data) = writes := by
  have ha := addr.isLt
  have hd := data.isLt
  rw [wordWrites_eq, packWord_toNat]
  cases writes <;> simp <;> omega

@[simp] theorem wordAddr_packWord : wordAddr (packWord writes addr data) = addr := by
  apply BitVec.eq_of_toNat_eq
  have ha := addr.isLt
  have hd := data.isLt
  rw [wordAddr_toNat, packWord_toNat]
  cases writes <;> simp <;> omega

@[simp] theorem wordData_packWord : wordData (packWord writes addr data) = data := by
  apply BitVec.eq_of_toNat_eq
  have ha := addr.isLt
  have hd := data.isLt
  rw [wordData_toNat, packWord_toNat]
  cases writes <;> simp <;> omega

end Fields

/-- A bus word is its three fields and nothing else. -/
theorem packWord_fields (w : BusWord) : packWord (wordWrites w) (wordAddr w) (wordData w) = w := by
  apply BitVec.eq_of_toNat_eq
  have h := w.isLt
  rw [packWord_toNat, wordAddr_toNat, wordData_toNat, wordWrites_eq]
  by_cases h1 : 262144 ≤ w.toNat
  · rw [decide_eq_true h1, Bool.toNat_true]; omega
  · rw [decide_eq_false h1, Bool.toNat_false]; omega

end Sys2Proof
end

