-- ==== Sys2Proof/Laws/Memory.lean ====
section
/-! SUPPORT. PBUF: read after write, the canonical form, and sums that depend only on the bytes summed. -/

namespace Sys2Proof.Machine

theorem cellAt_putCell (i j : Nat) (v : Byte) (cells : List Host.Cell) :
    cellAt j (putCell i v cells) = if i = j then some v else cellAt j cells := by
  induction cells with
  | nil => simp [putCell, cellAt]
  | cons c rest ih =>
    obtain ⟨k, b⟩ := c
    simp only [putCell]
    split
    · simp [cellAt]
    · split
      · subst_vars; simp only [cellAt]; split <;> simp_all
      · simp only [cellAt, ih]; split <;> split <;> simp_all

@[simp] theorem Memory.read_write_same (m : Memory) (i : Nat) (v : Byte) : (m.write i v).read i = v := by
  simp [Memory.read, Memory.write, cellAt_putCell]

theorem Memory.read_write_other (m : Memory) {i j : Nat} (v : Byte) (h : i ≠ j) :
    (m.write i v).read j = m.read j := by
  simp [Memory.read, Memory.write, cellAt_putCell, h]

theorem Memory.read_write (m : Memory) (i j : Nat) (v : Byte) :
    (m.write i v).read j = if i = j then v else m.read j := by
  split
  · subst_vars; exact m.read_write_same _ v
  · exact m.read_write_other v ‹_›

/-- A byte nothing has written since the reset holds the free `pbuf_init` (R39). -/
theorem Memory.read_fresh (fill i : Nat) : (Memory.mk [] fill).read i = Config.pbufInit fill i := rfl

theorem cellsRise_putCell (v : Byte) {i : Nat} (hi : i < pbufSize) (cells : List Host.Cell) (lo : Nat) (hlo : lo ≤ i)
    (h : cellsRise lo cells = true) : cellsRise lo (putCell i v cells) = true := by
  induction cells generalizing lo with
  | nil => simp [putCell, cellsRise, hlo, hi]
  | cons c rest ih =>
    obtain ⟨k, b⟩ := c
    simp only [cellsRise, Bool.and_eq_true, decide_eq_true_eq] at h
    obtain ⟨⟨hk, hks⟩, hr⟩ := h
    simp only [putCell]
    split
    · simp only [cellsRise, Bool.and_eq_true, decide_eq_true_eq]
      exact ⟨⟨hlo, hi⟩, ⟨by omega, hks⟩, hr⟩
    · split
      · subst_vars
        simp only [cellsRise, Bool.and_eq_true, decide_eq_true_eq]
        exact ⟨⟨hlo, hi⟩, hr⟩
      · simp only [cellsRise, Bool.and_eq_true, decide_eq_true_eq]
        exact ⟨⟨hk, hks⟩, ih (k + 1) (by omega) hr⟩

/-- A write inside PBUF keeps the canonical form. -/
theorem Memory.wf_write (m : Memory) {i : Nat} (hi : i < pbufSize) (v : Byte) (h : m.wf = true) :
    (m.write i v).wf = true := cellsRise_putCell v hi m.cells 0 (Nat.zero_le i) h

/-- PBUF after a reset is in canonical form. -/
@[simp] theorem Memory.wf_fresh (fill : Nat) : (Memory.mk [] fill).wf = true := rfl

/-- The sum looks at the first `n` bytes only. -/
theorem Memory.byteSum_congr {m m' : Memory} {n : Nat} (h : ∀ i < n, m.read i = m'.read i) :
    m.byteSum n = m'.byteSum n := by
  induction n with
  | zero => rfl
  | succ n ih => simp only [Memory.byteSum, ih fun i hi => h i (by omega), h n (by omega)]

theorem Memory.sum16_congr {m m' : Memory} {n : Nat} (h : ∀ i < n, m.read i = m'.read i) :
    m.sum16 n = m'.sum16 n := by rw [Memory.sum16, Memory.sum16, Memory.byteSum_congr h]

end Sys2Proof.Machine
end

