-- ==== Sys2Proof/Laws/State.lean ====
section
/-! SUPPORT. One lemma per field for each update of the state: `withDev`, `answer`, `ok`, `fail`. -/

namespace Sys2Proof.Machine

section StateUpdates
variable (s : State) (d : Device) (b : Byte)

@[simp] theorem State.withDev_dev : (s.withDev d).dev = d := rfl
@[simp] theorem State.withDev_script : (s.withDev d).script = s.script := rfl
@[simp] theorem State.withDev_answers : (s.withDev d).answers = s.answers := rfl
@[simp] theorem State.answer_dev : (s.answer b).dev = s.dev := rfl
@[simp] theorem State.answer_script : (s.answer b).script = s.script := rfl
@[simp] theorem State.answer_answers : (s.answer b).answers = s.answers ++ [b] := rfl
@[simp] theorem State.applyReset_dev : s.applyReset.dev = Device.reset (s.dev.pbuf.fill + 1) := rfl
@[simp] theorem State.applyReset_script : s.applyReset.script = s.script := rfl
@[simp] theorem State.applyReset_answers : s.applyReset.answers = s.answers := rfl
@[simp] theorem State.issueFirst_dev (e : HostEvent) : (s.issueFirst e).dev = s.dev := rfl
@[simp] theorem State.issueFirst_script (e : HostEvent) : (s.issueFirst e).script = e :: s.script := rfl
@[simp] theorem State.issueFirst_answers (e : HostEvent) : (s.issueFirst e).answers = s.answers := rfl

end StateUpdates

section Epilogues
variable (d : Device) (code : ErrCode)

@[simp] theorem Device.ok_pbuf : d.ok.pbuf = d.pbuf := rfl
@[simp] theorem Device.ok_status : d.ok.status = { d.status with err := 0#4 } := rfl
@[simp] theorem Device.ok_txType : d.ok.txType = d.txType := rfl
@[simp] theorem Device.ok_cnt : d.ok.cnt = d.cnt := rfl
@[simp] theorem Device.ok_txHlen : d.ok.txHlen = d.txHlen := rfl
@[simp] theorem Device.ok_txLen : d.ok.txLen = d.txLen := rfl
@[simp] theorem Device.ok_txhdr : d.ok.txhdr = d.txhdr := rfl
@[simp] theorem Device.ok_rxhdr : d.ok.rxhdr = d.rxhdr := rfl
@[simp] theorem Device.ok_rxType : d.ok.rxType = d.rxType := rfl
@[simp] theorem Device.ok_rxLen : d.ok.rxLen = d.rxLen := rfl
@[simp] theorem Device.ok_rxCk : d.ok.rxCk = d.rxCk := rfl
@[simp] theorem Device.ok_ckCalc : d.ok.ckCalc = d.ckCalc := rfl

@[simp] theorem Device.fail_pbuf : (d.fail code).pbuf = d.pbuf := rfl
@[simp] theorem Device.fail_status :
    (d.fail code).status = { d.status with err := code.value, anyErr := true } := rfl
@[simp] theorem Device.fail_txType : (d.fail code).txType = d.txType := rfl
@[simp] theorem Device.fail_cnt : (d.fail code).cnt = d.cnt := rfl
@[simp] theorem Device.fail_txHlen : (d.fail code).txHlen = d.txHlen := rfl
@[simp] theorem Device.fail_txLen : (d.fail code).txLen = d.txLen := rfl
@[simp] theorem Device.fail_txhdr : (d.fail code).txhdr = d.txhdr := rfl
@[simp] theorem Device.fail_rxhdr : (d.fail code).rxhdr = d.rxhdr := rfl
@[simp] theorem Device.fail_rxType : (d.fail code).rxType = d.rxType := rfl
@[simp] theorem Device.fail_rxLen : (d.fail code).rxLen = d.rxLen := rfl
@[simp] theorem Device.fail_rxCk : (d.fail code).rxCk = d.rxCk := rfl
@[simp] theorem Device.fail_ckCalc : (d.fail code).ckCalc = d.ckCalc := rfl

end Epilogues

end Sys2Proof.Machine
end

