-- ==== Sys2Proof/Laws/Ops.lean ====
section
/-! SUPPORT. What the shared operations can do, said once: what an address names, where a host write goes, what a
transaction and a command may change. -/

namespace Sys2Proof.Machine

section Places
variable {a : Addr}

theorem placeOf_pbuf (h : a.toNat ≤ 0xFF) : placeOf a = .pbuf a.toNat := by simp [placeOf, placeAt, h]
theorem placeOf_frame (h : 0x200 ≤ a.toNat) : placeOf a = .frame (a.toNat - 0x200) := by
  simp [placeOf, placeAt, h, show ¬a.toNat ≤ 0xFF by omega]
theorem placeOf_cmd (h : a.toNat = 0x100) : placeOf a = .cmd := by simp [placeOf, placeAt, h]
theorem placeOf_status (h : a.toNat = 0x101) : placeOf a = .status := by simp [placeOf, placeAt, h]
theorem placeOf_txType (h : a.toNat = 0x102) : placeOf a = .txType := by simp [placeOf, placeAt, h]
theorem placeOf_cntLo (h : a.toNat = 0x104) : placeOf a = .cntLo := by simp [placeOf, placeAt, h]
theorem placeOf_cntHi (h : a.toNat = 0x105) : placeOf a = .cntHi := by simp [placeOf, placeAt, h]
theorem placeOf_rxhdr (h : 0x110 ≤ a.toNat) (h' : a.toNat ≤ 0x115) : placeOf a = .rxhdr (a.toNat - 0x110) := by
  unfold placeOf
  generalize a.toNat = n at *
  interval_cases n <;> rfl

/-- The places a host write has an effect at (R38); every other one is read-only or reserved. -/
def HostWritable : Place → Bool
  | .pbuf _ | .cmd | .txType | .cntLo | .cntHi | .rxhdr _ => true
  | .status | .txHlen | .txLen | .txhdr _ | .rxType | .rxLen | .rxCkLo | .rxCkHi | .ckCalcLo | .ckCalcHi | .frame _
  | .reserved => false

theorem placeOf_notWritable (h0 : 0x100 < a.toNat) (h2 : a.toNat ≠ 0x102) (h3 : a.toNat ≠ 0x104)
    (h4 : a.toNat ≠ 0x105) (h5 : ¬(0x110 ≤ a.toNat ∧ a.toNat ≤ 0x115)) : HostWritable (placeOf a) = false := by
  unfold placeOf
  generalize a.toNat = n at *
  unfold placeAt
  rw [if_neg (by omega : ¬n ≤ 0xFF), if_neg (by omega : ¬n = 0x100), if_neg h2, if_neg h3, if_neg h4, if_neg h5]
  repeat' (first | rfl | split)

end Places

/-- Where a host write can go and what it then does: the cases of R38. -/
theorem Device.memWrite_cases (d : Device) (a : Addr) (v : Byte) :
    (a.toNat ≤ 0xFF ∧ d.memWrite a v = { d with pbuf := d.pbuf.write a.toNat v }) ∨
    (a.toNat = 0x100 ∧ d.memWrite a v = d.runCommand (commandOf v)) ∨
    (a.toNat = 0x102 ∧ d.memWrite a v = { d with txType := v }) ∨
    (a.toNat = 0x104 ∧ d.memWrite a v = { d with cnt := le16 v (hi8 d.cnt) }) ∨
    (a.toNat = 0x105 ∧ d.memWrite a v = { d with cnt := le16 (lo8 d.cnt) v }) ∨
    (0x110 ≤ a.toNat ∧ a.toNat ≤ 0x115 ∧ d.memWrite a v = { d with rxhdr := d.rxhdr.set (a.toNat - 0x110) v }) ∨
    (0x100 < a.toNat ∧ d.memWrite a v = d) := by
  by_cases h0 : a.toNat ≤ 0xFF
  · simp [Device.memWrite, placeOf_pbuf h0, h0]
  by_cases h1 : a.toNat = 0x100
  · simp [Device.memWrite, placeOf_cmd h1, h1]
  by_cases h2 : a.toNat = 0x102
  · simp [Device.memWrite, placeOf_txType h2, h2]
  by_cases h3 : a.toNat = 0x104
  · simp [Device.memWrite, placeOf_cntLo h3, h3]
  by_cases h4 : a.toNat = 0x105
  · simp [Device.memWrite, placeOf_cntHi h4, h4]
  by_cases h5 : 0x110 ≤ a.toNat ∧ a.toNat ≤ 0x115
  · simp [Device.memWrite, placeOf_rxhdr h5.1 h5.2, h5.1, h5.2]
  refine .inr <| .inr <| .inr <| .inr <| .inr <| .inr ⟨by omega, ?_⟩
  have hw := placeOf_notWritable (a := a) (by omega) h2 h3 h4 h5
  cases hp : placeOf a <;> simp [Device.memWrite, hp, HostWritable] at hw ⊢

/-- Every transaction answers a next state (R80). -/
theorem exec_hostRd (a : Addr) (s : State) : exec (.hostRd a) s = .next (s.answer (s.dev.memRead a)) := rfl
theorem exec_hostWr (a : Addr) (v : Byte) (s : State) :
    exec (.hostWr a v) s = .next (s.withDev (s.dev.memWrite a v)) := rfl
theorem exec_encode (s : State) : exec .encode s = .next (s.withDev (encodeCommand s.dev)) := rfl
theorem exec_decode (s : State) : exec .decode s = .next (s.withDev (decodeHeaderCommand s.dev)) := rfl
theorem exec_verify (s : State) : exec .verify s = .next (s.withDev (verifyCommand s.dev)) := rfl
theorem exec_frameCk (s : State) : exec .frameCk s = .next (s.withDev (frameCkCommand s.dev)) := rfl
theorem exec_clear (s : State) : exec .clear s = .next (s.withDev (clearCommand s.dev)) := rfl
theorem exec_illegalCmd (c : Byte) (s : State) :
    exec (.illegalCmd c) s = .next (s.withDev (illegalCommand s.dev)) := rfl

/-- A command keeps the host's inputs: it writes neither PBUF nor TX_TYPE, CNT, RXHDR. -/
theorem Device.runCommand_inputs (d : Device) (c : Command) :
    (d.runCommand c).pbuf = d.pbuf ∧ (d.runCommand c).txType = d.txType ∧ (d.runCommand c).cnt = d.cnt ∧
      (d.runCommand c).rxhdr = d.rxhdr := by
  cases c <;>
    simp only [Device.runCommand, encodeCommand, decodeHeaderCommand, verifyCommand, frameCkCommand, clearCommand,
      illegalCommand] <;>
    (try split_ifs) <;> simp

@[simp] theorem execAll_nil (s : State) : execAll [] s = .next s := rfl

theorem execAll_cons {i : Instr} {s t : State} (h : exec i s = .next t) (rest : List Instr) :
    execAll (i :: rest) s = execAll rest t := by simp [execAll, h]

end Sys2Proof.Machine
end

