-- ==== Sys2Proof/Laws/PerInstr.lean ====
section
/-! SUPPORT. Statements about every instruction as syntax, one lemma per constructor. -/

namespace Sys2Proof.Laws.TableRow

/-- The encoded word fits the instruction's row of spec/opcode_table.json: under the row's mask it is the row's match. -/
def Statement (i : Instr) : Prop := encodeWord i &&& i.tableMask = i.tableMatch

theorem packWord_getLsbD (writes : Bool) (addr : Addr) (data : Byte) (k : Nat) :
    (packWord writes addr data).getLsbD k =
      if k < 8 then data.getLsbD k else if k < 18 then addr.getLsbD (k - 8) else decide (k = 18) && writes := by
  simp only [packWord, BitVec.getLsbD_append, BitVec.getLsbD_ofBool]
  split_ifs <;> first | rfl | omega | (congr 1; simp; omega)

theorem hostRd (addr : Addr) : Statement (.hostRd addr) := by
  apply BitVec.eq_of_getLsbD_eq
  intro k hk
  simp only [Instr.tableMask, Instr.tableMatch, encodeWord, BitVec.getLsbD_and, packWord_getLsbD]
  interval_cases k <;> simp

theorem hostWr (addr : Addr) (data : Byte) : Statement (.hostWr addr data) := by
  apply BitVec.eq_of_getLsbD_eq
  intro k hk
  simp only [Instr.tableMask, Instr.tableMatch, encodeWord, BitVec.getLsbD_and, packWord_getLsbD]
  interval_cases k <;> simp

theorem encode : Statement .encode := by unfold Statement; decide

theorem decode : Statement .decode := by unfold Statement; decide

theorem verify : Statement .verify := by unfold Statement; decide

theorem frameCk : Statement .frameCk := by unfold Statement; decide

theorem clear : Statement .clear := by unfold Statement; decide

theorem illegalCmd (code : Byte) : Statement (.illegalCmd code) := by
  apply BitVec.eq_of_getLsbD_eq
  intro k hk
  simp only [Instr.tableMask, Instr.tableMatch, encodeWord, BitVec.getLsbD_and, packWord_getLsbD, cmdAddr]
  interval_cases k <;> simp

end Sys2Proof.Laws.TableRow
end

