-- ==== Sys2Proof/Tests/Slice0.lean ====
section
/-! SUPPORT. Tests: what well-formedness refuses, words written out from R48, vectors of 95_test_vectors.md, and for
every statement with hypotheses a witness that meets them. -/

namespace Sys2Proof.Tests

open Sys2Proof.Machine Sys2Proof.Certificates

/-! ### The states of the vectors -/

/-- The cells of PBUF once the host has written the bytes from index `i` on. -/
def cellsFrom (i : Nat) : List Byte → List Host.Cell
  | [] => []
  | b :: rest => (i, b) :: cellsFrom (i + 1) rest

/-- The PFCV after reset, with CNT, TX_TYPE and the first bytes of PBUF written. -/
def loaded (t : Byte) (n : Half) (bytes : List Byte) : Device :=
  { Device.reset 0 with txType := t, cnt := n, pbuf := ⟨cellsFrom 0 bytes, 0⟩ }

/-- A host that has nothing more to do, beside the PFCV `d`. -/
def host (d : Device) : State := ⟨d, [], []⟩

/-- The PFCV after an outcome. -/
def outDev : Host.Outcome State Fault Refusal → Option Device
  | .next t => some t.dev
  | .fault _ => none
  | .refused _ => none

/-- What the host has been answered after an outcome. -/
def outAnswers : Host.Outcome State Fault Refusal → Option (List Byte)
  | .next t => some t.answers
  | .fault _ => none
  | .refused _ => none

/-- V-EN6 before ENCODE. -/
def getBlocks : Device := loaded 0x20#8 2#16 [0xFF#8, 0xFF#8]

/-- V-EN6 after ENCODE. -/
def getBlocksSent : Device :=
  { getBlocks with
    status := ⟨0#4, false, false, true, false⟩
    txhdr := ⟨0xAE#8, 0xC1#8, 0x20#8, 0x02#8, 0x00#8, 0x00#8⟩
    txHlen := 4#8
    txLen := 2#8 }

/-- V-FC1 before FRAME_CK; the payload of the source's S8. -/
def response : Device := loaded 0x0C#8 4#16 [0x40#8, 0x01#8, 0xF0#8, 0x00#8]

/-- The PFCV `d` with RXHDR written. -/
def withHeader (d : Device) (h : Header) : Device := { d with rxhdr := h }

/-- V-VF1 and its relatives before VERIFY: the header `AF C1 0C 04`, then `ck`, decoded, and CNT at `n`. -/
def received (n ck : Half) : Device :=
  { response with
    cnt := n
    rxhdr := ⟨0xAF#8, 0xC1#8, 0x0C#8, 0x04#8, lo8 ck, hi8 ck⟩
    rxType := 0x0C#8
    rxLen := 4#8
    rxCk := ck
    status := ⟨0#4, true, false, false, false⟩ }

/-- V-VF1 after VERIFY. -/
def accepted : Device := { received 4#16 0x0131#16 with ckCalc := 0x0131#16, status := ⟨0#4, true, true, false, false⟩ }

/-- V-VF2 after VERIFY. -/
def rejected : Device := { received 4#16 0x0132#16 with ckCalc := 0x0131#16, status := ⟨2#4, true, false, false, true⟩ }

/-! ### WellFormed refuses -/

theorem test_wf_hostWr_cmd : ¬(Instr.hostWr 0x100#10 0x01#8).WellFormed := by decide
theorem test_wf_illegal_encode : ¬(Instr.illegalCmd 0x01#8).WellFormed := by decide
theorem test_wf_illegal_clear : ¬(Instr.illegalCmd 0x05#8).WellFormed := by decide
theorem test_wf_illegal_zero : (Instr.illegalCmd 0x00#8).WellFormed := by decide
theorem test_wf_illegal_six : (Instr.illegalCmd 0x06#8).WellFormed := by decide

/-! ### Words written out from R48: W, then ten bits of ADDR, then eight of DATA -/

/-- V-HA10: a read of CMD with DATA = 0xAB. -/
theorem test_decode_hostRd : decodeWord 0b0_0100000000_10101011#19 = .hostRd 0x100#10 := by decide
/-- P1: `settype 0x20`. -/
theorem test_decode_hostWr : decodeWord 0b1_0100000010_00100000#19 = .hostWr 0x102#10 0x20#8 := by decide
/-- V-HA9. -/
theorem test_decode_hostWr_top : decodeWord 0b1_1111111111_11111111#19 = .hostWr 0x3FF#10 0xFF#8 := by decide
theorem test_decode_encode : decodeWord 0b1_0100000000_00000001#19 = .encode := by decide
theorem test_decode_decode : decodeWord 0b1_0100000000_00000010#19 = .decode := by decide
theorem test_decode_verify : decodeWord 0b1_0100000000_00000011#19 = .verify := by decide
theorem test_decode_frameCk : decodeWord 0b1_0100000000_00000100#19 = .frameCk := by decide
theorem test_decode_clear : decodeWord 0b1_0100000000_00000101#19 = .clear := by decide
/-- V-IL4: a code with ENCODE's low bits is reserved. -/
theorem test_decode_illegal : decodeWord 0b1_0100000000_10000001#19 = .illegalCmd 0x81#8 := by decide
theorem test_decode_illegal_zero : decodeWord 0b1_0100000000_00000000#19 = .illegalCmd 0x00#8 := by decide
/-- A number with a bit above the word's 19 is no bus word (log 5). -/
theorem test_decode_too_wide : decodeTableWord 24 0x80000 = none := by decide
theorem test_encode_words : [Instr.hostRd 0x101#10, .hostWr 0x102#10 0x20#8, .verify, .illegalCmd 0x81#8].map encodeWord =
    [0x10100#19, 0x50220#19, 0x50003#19, 0x50081#19] := by decide

/-! ### Vectors -/

/-- V-EN6. -/
theorem test_encode_getBlocks : outDev (exec .encode (host getBlocks)) = some getBlocksSent := by decide
/-- V-EN10: the old header is kept and the frame hidden. -/
theorem test_encode_too_long :
    (outDev (exec .encode (host { getBlocksSent with cnt := 300#16 }))).map (fun d => (d.status.toByte, d.txhdr)) =
      some (0x84#8, ⟨0xAE#8, 0xC1#8, 0x20#8, 0x02#8, 0x00#8, 0x00#8⟩) := by decide
/-- V-DC8: 0x0187, not 0x8701. -/
theorem test_decode_littleEndian :
    (outDev (exec .decode (host (withHeader (Device.reset 0) ⟨0xAF#8, 0xC1#8, 0x20#8, 0x0E#8, 0x87#8, 0x01#8⟩)))).map
      (fun d => (d.status.toByte, d.rxType, d.rxLen, d.rxCk)) = some (0x10#8, 0x20#8, 14#8, 0x0187#16) := by decide
/-- V-DC4 from V-VF1: the swapped marker, the latched header kept, both flags cleared. -/
theorem test_decode_swapped :
    (outDev (exec .decode (host (withHeader accepted ⟨0xC1#8, 0xAF#8, 0x0E#8, 0#8, 0#8, 0#8⟩)))).map
      (fun d => (d.status.toByte, d.rxType, d.rxLen, d.rxCk)) = some (0x81#8, 0x0C#8, 4#8, 0x0131#16) := by decide
/-- V-VF1. -/
theorem test_verify_accepts : outDev (exec .verify (host (received 4#16 0x0131#16))) = some accepted := by decide
/-- V-VF2. -/
theorem test_verify_rejects : outDev (exec .verify (host (received 4#16 0x0132#16))) = some rejected := by decide
/-- V-FC1. -/
theorem test_frameCk_response :
    (outDev (exec .frameCk (host response))).map (fun d => (d.status.toByte, d.txhdr, d.ckCalc, d.frame 11)) =
      some (0x40#8, ⟨0xAF#8, 0xC1#8, 0x0C#8, 0x04#8, 0x31#8, 0x01#8⟩, 0x0131#16,
        [0xAF#8, 0xC1#8, 0x0C#8, 0x04#8, 0x31#8, 0x01#8, 0x40#8, 0x01#8, 0xF0#8, 0x00#8, 0x00#8]) := by decide
/-- V-FC5. -/
theorem test_frameCk_too_long :
    (outDev (exec .frameCk (host { response with cnt := 256#16 }))).map (fun d => (d.status.toByte, d.frameByte 0)) =
      some (0x84#8, 0x00#8) := by decide
/-- V-CL1. -/
theorem test_clear_after_rejection :
    outDev (exec .clear (host rejected)) = some (withHeader response ⟨0xAF#8, 0xC1#8, 0x0C#8, 0x04#8, 0x32#8, 0x01#8⟩) := by
  decide
/-- V-IL2. -/
theorem test_illegal_after_encode :
    (outDev (exec (.illegalCmd 0x06#8) (host getBlocksSent))).map (fun d => (d.status.toByte, d.txhdr)) =
      some (0xC6#8, getBlocksSent.txhdr) := by decide
/-- V-IL3. -/
theorem test_illegal_after_verify :
    (outDev (exec (.illegalCmd 0xFF#8) (host accepted))).map (·.status.toByte) = some 0xB6#8 := by decide
/-- V-EN6's FRAME[4], and V-HA6's CNT_HI. -/
theorem test_hostRd_frame : outAnswers (exec (.hostRd 0x204#10) (host getBlocksSent)) = some [0xFF#8] := by decide
theorem test_hostRd_cntHi :
    outAnswers (exec (.hostRd 0x105#10) (host { Device.reset 0 with cnt := 0x1234#16 })) = some [0x12#8] := by decide
/-- V-HA6, its second write. -/
theorem test_hostWr_cntHi :
    (outDev (exec (.hostWr 0x105#10 0x12#8) (host { Device.reset 0 with cnt := 0x0034#16 }))).map (·.cnt) =
      some 0x1234#16 := by decide
/-- V-HA5: FRAME is read-only. -/
theorem test_hostWr_frame : outDev (exec (.hostWr 0x200#10 0x12#8) (host getBlocksSent)) = some getBlocksSent := by decide
/-- P2's first words: the next step runs the word placed for it. -/
theorem test_step_placed_word :
    (outDev (step (State.reset.withFetchWord 24 0x510AF))).map (·.rxhdr) = some ⟨0xAF#8, 0#8, 0#8, 0#8, 0#8, 0#8⟩ := by
  decide

/-! ### Witnesses: the hypotheses of each statement can be met, at the edges of each clause -/

/-- One command of each kind. -/
abbrev commands : List Instr := [.encode, .decode, .verify, .frameCk, .clear, .illegalCmd 0x00#8, .illegalCmd 0xFF#8]

theorem witness_DecodeOfEncodedInstruction :
    ∀ i ∈ [Instr.hostRd 0x100#10, .hostWr 0x000#10 0xFF#8, .hostWr 0x0FF#10 0#8, .hostWr 0x101#10 0#8,
      .hostWr 0x3FF#10 0#8, .encode, .decode, .verify, .frameCk, .clear, .illegalCmd 0x00#8, .illegalCmd 0x06#8,
      .illegalCmd 0xFF#8], i.WellFormed := by
  simp only [List.forall_mem_cons, List.not_mem_nil, false_implies, implies_true, and_true]
  decide

theorem witness_EncodeOfDecodedWord : (0x3FFFF#19).toNat < 2 ^ 18 ∧ ¬(0x40000#19).toNat < 2 ^ 18 := by decide

/-- The three cases: a read, a command, a write. -/
theorem witness_BusWordFieldsAndEffect :
    (0 ≤ 1 ∧ (0 : Nat) = 0) ∧ (1 ≤ 1 ∧ (1 : Nat) ≠ 0 ∧ (0x100#10).toNat = 0x100) ∧
      (1 ≤ 1 ∧ (0x101#10).toNat ≠ 0x100 ∧ (0x0FF#10).toNat ≠ 0x100) := by decide

theorem witness_StepRunsTheDecodedTransaction :
    (State.reset.withFetchWord 24 0x50001).script = .txn 0x50001#19 :: [] := by decide

theorem witness_StepWithNothingToDoIsIdle : State.reset.script = [] := by decide

theorem witness_TransactionsRunInHostOrder :
    (⟨getBlocks, [.txn 0x50001#19, .txn 0x10100#19, .reset], []⟩ : State).script =
      [0x50001#19, 0x10100#19].map .txn ++ [.reset] := by decide

theorem witness_ResetAndClearValues : 0x200 ≤ (0x200#10).toNat ∧ 0x200 ≤ (0x3FF#10).toNat := by decide

theorem witness_ResetInputResets : (⟨accepted, [.reset, .txn 0x10100#19], [0#8]⟩ : State).script =
    .reset :: [.txn 0x10100#19] := by decide

theorem witness_HostReadAnswers_places :
    [0x0FF, 0x100, 0x101, 0x102, 0x103, 0x107, 0x108, 0x10D, 0x10E, 0x10F, 0x110, 0x115, 0x116, 0x11D, 0x11E, 0x1FF,
      0x200, 0x3FF].map (fun a => specMemRead accepted a) =
    [accepted.pbuf.read 0xFF, 0x00#8, 0x30#8, 0x0C#8, 0x00#8, 0x00#8, 0x00#8, 0x00#8, 0x00#8, 0x00#8, 0xAF#8, 0x01#8,
      0x00#8, 0x01#8, 0x00#8, 0x00#8, 0x00#8, 0x00#8] := by
  simp only [List.map_cons, List.map_nil, List.cons.injEq]
  exact ⟨rfl, by decide⟩

theorem witness_HostWriteEffect :
    (0x100#10).toNat = 0x100 ∧ (0x0FF#10).toNat ≠ 0x100 ∧ (0x101#10).toNat ≠ 0x100 ∧
      specMemWrite accepted 0x115 0x9A#8 = withHeader accepted ⟨0xAF#8, 0xC1#8, 0x0C#8, 0x04#8, 0x31#8, 0x9A#8⟩ ∧
      specMemWrite accepted 0x116 0x9A#8 = accepted := by decide

theorem witness_ReservedAndReadOnlyAddresses :
    (∀ a ∈ [0x103#10, 0x10E#10, 0x10F#10, 0x116#10, 0x117#10, 0x11E#10, 0x1FF#10], ReservedAddr a.toNat) ∧
    ∀ a ∈ [0x101#10, 0x106#10, 0x107#10, 0x108#10, 0x10D#10, 0x118#10, 0x11D#10, 0x200#10, 0x3FF#10],
      ReadOnlyAddr a.toNat ∧ ¬ReservedAddr a.toNat := by decide

theorem witness_FrameWindow :
    0x200 ≤ (0x200#10).toNat ∧ 0x200 ≤ (0x3FF#10).toNat ∧ (host (loaded 0#8 0#16 [])).dev.cnt.toNat ≤ 255 ∧
      (host (loaded 0#8 255#16 [])).dev.cnt.toNat ≤ 255 := by decide

theorem witness_HostWriteThenRead :
    (∀ a ∈ [0x000#10, 0x0FF#10, 0x102#10, 0x115#10], a.toNat < 0x200 ∧ a.toNat ≠ 0x100 ∧
      ¬(ReservedAddr a.toNat ∨ ReadOnlyAddr a.toNat)) ∧
    (∀ a ∈ [0x101#10, 0x103#10, 0x116#10, 0x1FF#10], a.toNat < 0x200 ∧ a.toNat ≠ 0x100 ∧
      (ReservedAddr a.toNat ∨ ReadOnlyAddr a.toNat)) ∧
    (0x1FF#10 ≠ 0x000#10 ∧ (0x1FF#10).toNat < 0x200) := ⟨by decide, by decide, by decide⟩

theorem witness_SixteenBitRegistersAreLittleEndian : SyncAt accepted := by decide

theorem witness_PayloadBuffer :
    ((0x000#10).toNat ≤ 0xFF ∧ (0x0FF#10).toNat ≤ 0xFF) ∧ ∀ i ∈ commands, IsCommand i := by
  simp only [commands, List.forall_mem_cons, List.not_mem_nil, false_implies, implies_true, and_true]
  decide

theorem witness_PbufHoldsTheLastWrite :
    (∀ i ∈ [Instr.hostWr 0x0FF#10 0x11#8, .encode, .hostRd 0x0FF#10, .hostWr 0x0FF#10 0x22#8, .illegalCmd 0#8],
      i.WellFormed) ∧ 255 < 256 ∧ 0 < 256 := by
  simp only [List.forall_mem_cons, List.not_mem_nil, false_implies, implies_true, and_true]
  decide

theorem witness_TxTypeAndRxhdr :
    (0x110 ≤ (0x110#10).toNat ∧ (0x110#10).toNat ≤ 0x115) ∧ (0x110 ≤ (0x115#10).toNat ∧ (0x115#10).toNat ≤ 0x115) ∧
      (∀ i ∈ commands, IsCommand i) ∧ (host (received 255#16 0x0131#16)).dev.cnt.toNat ≤ 255 ∧
      SyncAt (host (received 255#16 0x0131#16)).dev := by
  simp only [commands, List.forall_mem_cons, List.not_mem_nil, false_implies, implies_true, and_true]
  decide

theorem witness_HdrValidWriters :
    ∀ i ∈ [Instr.encode, .verify, .frameCk, .illegalCmd 0x06#8, .hostWr 0x101#10 0xFF#8], i.WellFormed ∧ i ≠ .decode ∧ i ≠ .clear := by
  simp only [List.forall_mem_cons, List.not_mem_nil, false_implies, implies_true, and_true]
  decide

theorem witness_PayloadOkWriters :
    ∀ i ∈ [Instr.encode, .frameCk, .illegalCmd 0x06#8, .hostWr 0x101#10 0xFF#8], i.WellFormed ∧ i ≠ .verify ∧ i ≠ .decode ∧ i ≠ .clear := by
  simp only [List.forall_mem_cons, List.not_mem_nil, false_implies, implies_true, and_true]
  decide

theorem witness_TxValidWriters :
    (∀ i ∈ [Instr.decode, .verify, .illegalCmd 0x06#8, .hostWr 0x101#10 0xFF#8], i.WellFormed ∧ i ≠ .encode ∧ i ≠ .frameCk ∧ i ≠ .clear) ∧
      (Instr.encode = .encode ∨ Instr.encode = .frameCk) ∧ (Instr.frameCk = .encode ∨ Instr.frameCk = .frameCk) ∧
      ((host accepted).dev.status.txValid = false ∧ 0x200 ≤ (0x200#10).toNat) := by
  simp only [List.forall_mem_cons, List.not_mem_nil, false_implies, implies_true, and_true]
  decide

theorem witness_AnyErrIsSticky :
    ∀ i ∈ [Instr.encode, .decode, .verify, .frameCk, .illegalCmd 0x00#8], IsCommand i ∧ i ≠ .clear := by
  simp only [List.forall_mem_cons, List.not_mem_nil, false_implies, implies_true, and_true]
  decide

theorem witness_EncodeEffect :
    (255 < (host (loaded 0#8 256#16 [])).dev.cnt.toNat ∧ 255 < (host (loaded 0#8 65535#16 [])).dev.cnt.toNat) ∧
      (host (loaded 0xFF#8 0#16 [])).dev.cnt.toNat ≤ 255 ∧ (host (loaded 0xFF#8 255#16 [])).dev.cnt.toNat ≤ 255 ∧
      4 + (host getBlocks).dev.cnt.toNat ≤ 6 ∧
      ∀ i ∈ [Instr.hostWr 0x002#10 0x55#8, .hostWr 0x104#10 9#8, .decode, .verify, .illegalCmd 0x00#8, .hostRd 0x200#10],
        i.WellFormed ∧ i ≠ .encode ∧ i ≠ .frameCk ∧ i ≠ .clear := by
  simp only [List.forall_mem_cons, List.not_mem_nil, false_implies, implies_true, and_true]
  decide

/-- A transaction list after ENCODE that leaves the payload unchanged. -/
theorem witness_EncodeEffect_payload_kept : ∀ j < (host getBlocks).dev.cnt.toNat,
    (getBlocksSent.pbuf.write 2 0x55#8).read j = getBlocks.pbuf.read j := by decide

theorem witness_TransmitRegisters :
    (host (loaded 0#8 0#16 [])).dev.cnt.toNat ≤ 255 ∧ (host (loaded 0#8 255#16 [])).dev.cnt.toNat ≤ 255 ∧
    (∀ i ∈ [Instr.encode, .frameCk, .verify, .hostRd 0x100#10, .hostWr 0x106#10 7#8], i.WellFormed ∧
      (i = .encode ∨ i = .frameCk → 255 < (host (loaded 0#8 256#16 [])).dev.cnt.toNat) ∧ i ≠ .clear) ∧
    ((host accepted).dev.txHlen = 0#8 ∧ (host getBlocksSent).dev.txHlen = 4#8 ∧
      (host { getBlocksSent with txHlen := 6#8 }).dev.txHlen = 6#8) ∧
    ((host getBlocksSent).dev.status.txValid = true → (host getBlocksSent).dev.txLen = (host getBlocksSent).dev.txhdr.b3) ∧
    ∀ a ∈ [0x106#10, 0x107#10, 0x108#10, 0x10D#10], 0x106 ≤ a.toNat ∧ a.toNat ≤ 0x10D := by
  simp only [List.forall_mem_cons, List.not_mem_nil, false_implies, implies_true, and_true]
  decide

theorem witness_HeaderLatchedPayloadLive :
    ((0x0FF#10).toNat ≠ 0x100 ∧ (0x101#10).toNat ≠ 0x100) ∧ (host getBlocksSent).dev.status.txValid = true ∧
      (host getBlocksSent).dev.txHlen.toNat ≤ 6 ∧ 0 < (host getBlocksSent).dev.txLen.toNat ∧
      1 < (host getBlocksSent).dev.txLen.toNat := by decide

theorem witness_FrameStaysUntilTheNextBuild :
    (host getBlocks).dev.cnt.toNat ≤ 255 ∧
      ∀ i ∈ [Instr.hostWr 0x000#10 0x55#8, .hostWr 0x104#10 9#8, .decode, .verify, .illegalCmd 0x00#8, .hostRd 0x200#10],
        i.WellFormed ∧ i ≠ .encode ∧ i ≠ .frameCk ∧ i ≠ .clear := by
  simp only [List.forall_mem_cons, List.not_mem_nil, false_implies, implies_true, and_true]
  decide

theorem witness_FrameLengthFromItsHeader :
    ([] : List Byte).length ≤ 255 ∧ (List.replicate 255 (0xAA#8)).length ≤ 255 :=
  ⟨Nat.zero_le _, List.length_replicate.le⟩

theorem witness_DecodeEffect :
    SyncAt (host accepted).dev ∧ ¬SyncAt (host (withHeader accepted ⟨0xAF#8, 0xC0#8, 0x0E#8, 0#8, 0#8, 0#8⟩)).dev := by decide

theorem witness_SyncMarkerIsExact :
    ((host (withHeader accepted ⟨0xAE#8, 0xC1#8, 0x0E#8, 0#8, 0#8, 0#8⟩)).dev.rxhdr.b0 = 0xAE#8 ∧
      (host (withHeader accepted ⟨0xAE#8, 0xC1#8, 0x0E#8, 0#8, 0#8, 0#8⟩)).dev.rxhdr.b1 = 0xC1#8) ∧
    (host (withHeader accepted ⟨0xC1#8, 0xAF#8, 0x0E#8, 0#8, 0#8, 0#8⟩)).dev.rxhdr.b0 = 0xC1#8 ∧
      (host (withHeader accepted ⟨0xC1#8, 0xAF#8, 0x0E#8, 0#8, 0#8, 0#8⟩)).dev.rxhdr.b1 = 0xAF#8 := by decide

theorem witness_ReceiveRegisters :
    (∀ i ∈ .hostRd 0x118#10 :: .hostWr 0x118#10 7#8 :: commands, i.WellFormed) ∧
      ((Instr.decode = .decode ∧ SyncAt (host accepted).dev) ∧ (host accepted).dev.status.hdrValid = true) := by
  simp only [commands, List.forall_mem_cons, List.not_mem_nil, false_implies, implies_true, and_true]
  decide

theorem witness_VerifyEffect :
    (host (Device.reset 0)).dev.status.hdrValid = false ∧
    ((host (received 0x0104#16 0x0131#16)).dev.status.hdrValid = true ∧
      (host (received 0x0104#16 0x0131#16)).dev.cnt.toNat ≠ (host (received 0x0104#16 0x0131#16)).dev.rxLen.toNat) ∧
    ((host accepted).dev.status.hdrValid = true ∧ (host accepted).dev.cnt.toNat = (host accepted).dev.rxLen.toNat ∧
      (host accepted).dev.pbuf.sum16 (host accepted).dev.rxLen.toNat = (host accepted).dev.rxCk) ∧
    (host rejected).dev.status.hdrValid = true ∧ (host rejected).dev.cnt.toNat = (host rejected).dev.rxLen.toNat ∧
      (host rejected).dev.pbuf.sum16 (host rejected).dev.rxLen.toNat ≠ (host rejected).dev.rxCk := by decide

theorem witness_VerifyEffect_rest_of_pbuf : ∀ j < (host accepted).dev.rxLen.toNat,
    (accepted.pbuf.write 4 0x55#8).read j = (host accepted).dev.pbuf.read j := by decide

theorem witness_FrameCkEffect : ((0x000#10).toNat ≤ 0xFF ∧ (0x0FF#10).toNat ≤ 0xFF) ∧
    (255 < (host (loaded 0#8 256#16 [])).dev.cnt.toNat ∧ 255 < (host (loaded 0#8 65535#16 [])).dev.cnt.toNat) ∧
      (host (loaded 0xFF#8 0#16 [])).dev.cnt.toNat ≤ 255 ∧ (host (loaded 0xFF#8 255#16 [])).dev.cnt.toNat ≤ 255 := by decide

/-- Each case of the chain: VERIFY that summed, FRAME_CK that succeeded, CLEAR, and a transaction that leaves it. -/
theorem witness_CkCalcWriters :
    (∀ i ∈ [Instr.verify, .frameCk, .clear, .encode, .hostWr 0x11C#10 7#8], i.WellFormed) ∧
      (outDev (exec .verify (host (received 4#16 0x0131#16)))).map (·.status.err) = some 0#4 ∧
      (outDev (exec .verify (host (received 4#16 0x0132#16)))).map (·.status.err) = some 2#4 ∧
      (outDev (exec .frameCk (host response))).map (·.status.err) = some 0#4 ∧
      (outDev (exec .verify (host (received 3#16 0x0131#16)))).map (·.status.err) = some 3#4 := by
  simp only [List.forall_mem_cons, List.not_mem_nil, false_implies, implies_true, and_true]
  decide

theorem witness_Sum16IsThePayloadSum : 0 ≤ 255 ∧ 255 ≤ 255 ∧ [2, 0, 1].Perm (List.range 3) := by decide

theorem witness_ChecksumNeverOverflows :
    255 ≤ 255 ∧ 0xFE01 < (host (received 4#16 0xFE02#16)).dev.rxCk.toNat ∧
      0xFE01 < (host (received 4#16 0xFFFF#16)).dev.rxCk.toNat := by decide

theorem witness_AccumulatorWidthIsImmaterial : 16 ≤ 16 ∧ 16 ≤ 32 := by decide

theorem witness_CommandsReadOnlyTheirPayload :
    (IsCommand .verify ∧ (host accepted).dev.rxLen.toNat ≤ 4) ∧
      (IsCommand .frameCk ∧ (host response).dev.cnt.toNat ≤ 255 ∧ (host response).dev.cnt.toNat ≤ 4) ∧
      ∀ i ∈ commands, IsCommand i := by
  simp only [commands, List.forall_mem_cons, List.not_mem_nil, false_implies, implies_true, and_true]
  decide

theorem witness_SingleByteMutationIsDetected :
    exec .verify (host (received 4#16 0x0131#16)) = .next (host accepted) ∧ (host accepted).dev.status.err = 0#4 ∧
      3 < (host accepted).dev.rxLen.toNat ∧ 0xF1#8 ≠ (host accepted).dev.pbuf.read 3 := ⟨rfl, by decide, by decide, by decide⟩

/-- V-VF4's reordering, and a pair of changes that cancel. -/
theorem witness_ReorderingIsNotDetected :
    exec .verify (host (received 4#16 0x0131#16)) = .next (host accepted) ∧ (host accepted).dev.status.err = 0#4 ∧
      ((loaded 0#8 0#16 [0x01#8, 0x40#8, 0x00#8, 0xF0#8]).pbuf.payload (host accepted).dev.rxLen.toNat).Perm
        ((host accepted).dev.pbuf.payload (host accepted).dev.rxLen.toNat) ∧
      (0 < (host accepted).dev.rxLen.toNat ∧ 3 < (host accepted).dev.rxLen.toNat ∧ 0 ≠ 3 ∧
        (0x3F#8).toNat + (0x01#8).toNat =
          ((host accepted).dev.pbuf.read 0).toNat + ((host accepted).dev.pbuf.read 3).toNat) :=
  ⟨rfl, by decide, by decide, by decide⟩

theorem witness_ClearEffect : (host (Device.reset 0)).dev.status.hdrValid = false ∧
    ∀ i ∈ .hostWr 0x000#10 1#8 :: .hostRd 0x101#10 :: commands, i.WellFormed := by
  simp only [commands, List.forall_mem_cons, List.not_mem_nil, false_implies, implies_true, and_true]
  decide

theorem witness_IllegalCommandEffect :
    (∀ c ∈ [0x00#8, 0x06#8, 0x81#8, 0xFF#8], ReservedCode c) ∧ ∀ c ∈ [0x01#8, 0x05#8], ¬ReservedCode c := by decide

/-- A success, and a failure of every command that can fail. -/
theorem witness_CommandEpilogues :
    (∀ i ∈ commands, IsCommand i) ∧
      (outDev (exec .verify (host (received 4#16 0x0131#16)))).map (·.status.err) = some 0#4 ∧
      [exec .decode (host (Device.reset 0)), exec .verify (host (Device.reset 0)),
        exec .encode (host (loaded 0#8 256#16 [])), exec .frameCk (host (loaded 0#8 256#16 [])),
        exec (.illegalCmd 0x00#8) (host accepted)].map (fun o => (outDev o).map (·.status.err)) =
        [some 1#4, some 5#4, some 4#4, some 4#4, some 6#4] := by
  simp only [commands, List.forall_mem_cons, List.not_mem_nil, false_implies, implies_true, and_true]
  decide

/-- Every error code is raised somewhere. -/
theorem witness_ErrorCauses :
    (∀ i ∈ commands, IsCommand i) ∧
      [exec .decode (host (Device.reset 0)), exec .verify (host (received 4#16 0x0132#16)),
        exec .verify (host (received 5#16 0x0131#16)), exec .encode (host (loaded 0#8 256#16 [])),
        exec .verify (host (Device.reset 0)), exec (.illegalCmd 0x06#8) (host accepted)].map
          (fun o => (outDev o).map (·.status.err)) =
        [some 1#4, some 2#4, some 3#4, some 4#4, some 5#4, some 6#4] := by
  simp only [commands, List.forall_mem_cons, List.not_mem_nil, false_implies, implies_true, and_true]
  decide

theorem witness_ErrorPriority :
    (host (received 3#16 0#16)).dev.status.hdrValid = true ∧
      (host (received 3#16 0#16)).dev.cnt.toNat ≠ (host (received 3#16 0#16)).dev.rxLen.toNat ∧
      (host (Device.reset 0)).dev.status.hdrValid = false ∧
      ((host rejected).dev.status.hdrValid = true ∧ (host rejected).dev.cnt.toNat = (host rejected).dev.rxLen.toNat ∧
        (host rejected).dev.pbuf.sum16 (host rejected).dev.rxLen.toNat ≠ (host rejected).dev.rxCk) := by decide

theorem witness_TransactionTwiceIsOnce :
    (∀ i ∈ .hostWr 0x105#10 7#8 :: .hostWr 0x100#10 1#8 :: commands, ∀ a ∈ [0x000#10, 0x3FF#10], i ≠ .hostRd a) ∧
      Instr.hostRd 0x3FF#10 = .hostRd 0x3FF#10 := by decide

theorem witness_EncodeDecodeRoundTrip :
    (host (loaded 0x14#8 0#16 [])).dev.cnt.toNat ≤ 255 ∧ (host (loaded 0x14#8 255#16 [])).dev.cnt.toNat ≤ 255 := by decide

theorem witness_GeneratorAndVerifierAgree :
    (host (loaded 0x0C#8 0#16 [])).dev.cnt.toNat ≤ 255 ∧ (host (loaded 0x0C#8 255#16 [])).dev.cnt.toNat ≤ 255 := by decide

theorem witness_ReadsWithoutCommandsDoNotTear :
    ∀ i ∈ [Instr.hostWr 0x114#10 0xAA#8, .hostRd 0x101#10, .hostWr 0x11A#10 1#8], i.WellFormed ∧ ¬IsCommand i := by
  simp only [List.forall_mem_cons, List.not_mem_nil, false_implies, implies_true, and_true]
  decide

/-- A state that meets the invariant: V-FC1 after FRAME_CK. -/
theorem witness_StepKeepsTheInvariant : (frameCkCommand response).Inv ∧
    step ⟨frameCkCommand response, [.txn 0x50002#19], []⟩ =
      .next ⟨decodeHeaderCommand (frameCkCommand response), [], []⟩ :=
  ⟨⟨by decide, by decide, by decide, by decide, by decide, .inr (.inr (by decide)), by decide, by decide⟩, rfl⟩

theorem witness_StepKeepsPbufCanonical : getBlocks.pbuf.wf = true ∧
    step ⟨getBlocks, [.txn 0x4FF07#19], []⟩ = .next ⟨specMemWrite getBlocks 0xFF 7#8, [], []⟩ := ⟨by decide, rfl⟩

theorem witness_AssemblerLines :
    (0x3FF ≤ 0x3FF ∧ 0xFF ≤ 0xFF) ∧ (0x3FF < 0x400 ∧ 0xFF < 0x100) ∧ (Symbol.frame 511).addr = some 0x3FF ∧
      (Symbol.frame 512).addr = none ∧ (Symbol.pbuf 255).addr = some 0xFF ∧ (Symbol.rxhdr 5).addr = some 0x115 := by decide

theorem witness_PseudoInstructionEffects :
    255 ≤ 255 ∧ 65535 ≤ 65535 ∧ (List.replicate 256 (0xAA#8)).length ≤ 256 ∧ 512 ≤ 512 :=
  ⟨Nat.le_refl _, Nat.le_refl _, List.length_replicate.le, Nat.le_refl _⟩

end Sys2Proof.Tests
end

section
/-! SUPPORT. What each command can do, said once: its cases, and the items of state it leaves as they are. -/

namespace Sys2Proof.Machine

open Sys2Proof.Certificates

/-! ### What holds after a transaction -/

section AfterOneTransaction
variable {s t : State} {i : Instr} {P : State → Prop}

theorem after_iff (h : exec i s = .next t) : After i s P ↔ P t := by
  simp [After, h]

@[simp] theorem after_hostRd (a : Addr) : After (.hostRd a) s P ↔ P (s.answer (s.dev.memRead a)) :=
  after_iff (exec_hostRd a s)
@[simp] theorem after_hostWr (a : Addr) (v : Byte) :
    After (.hostWr a v) s P ↔ P (s.withDev (s.dev.memWrite a v)) := after_iff (exec_hostWr a v s)
@[simp] theorem after_encode : After .encode s P ↔ P (s.withDev (encodeCommand s.dev)) := after_iff (exec_encode s)
@[simp] theorem after_decode : After .decode s P ↔ P (s.withDev (decodeHeaderCommand s.dev)) :=
  after_iff (exec_decode s)
@[simp] theorem after_verify : After .verify s P ↔ P (s.withDev (verifyCommand s.dev)) := after_iff (exec_verify s)
@[simp] theorem after_frameCk : After .frameCk s P ↔ P (s.withDev (frameCkCommand s.dev)) := after_iff (exec_frameCk s)
@[simp] theorem after_clear : After .clear s P ↔ P (s.withDev (clearCommand s.dev)) := after_iff (exec_clear s)
@[simp] theorem after_illegalCmd (c : Byte) : After (.illegalCmd c) s P ↔ P (s.withDev (illegalCommand s.dev)) :=
  after_iff (exec_illegalCmd c s)

@[simp] theorem afterAll_nil : AfterAll [] s P ↔ P s := by
  simp [AfterAll]

@[simp] theorem afterAll_cons (is : List Instr) :
    AfterAll (i :: is) s P ↔ After i s fun t => AfterAll is t P := by
  simp only [AfterAll, After, execAll]
  cases exec i s <;> simp

end AfterOneTransaction

@[simp] theorem State.withDev_self (s : State) : s.withDev s.dev = s := rfl

/-! ### A write to CMD -/

theorem exec_decodeCommand (c : Byte) (s : State) :
    exec (decodeCommand c) s = .next (s.withDev (s.dev.runCommand (commandOf c))) := by
  simp only [decodeCommand]
  cases commandOf c <;> rfl

theorem Device.memWrite_cmd (d : Device) (v : Byte) : d.memWrite cmdAddr v = d.runCommand (commandOf v) := rfl

/-- A HOST_WR to CMD is the command row of its data (R15, R49). -/
theorem exec_hostWr_cmd (c : Byte) (s : State) : exec (.hostWr cmdAddr c) s = exec (decodeCommand c) s := by
  rw [exec_hostWr, Device.memWrite_cmd, exec_decodeCommand]

theorem decodeWord_cmdWrite (c : Byte) : decodeWord (packWord true cmdAddr c) = decodeCommand c := by
  simp [decodeWord]

theorem commandOf_eq_illegal_iff (c : Byte) : commandOf c = .illegal ↔ ReservedCode c := by
  simp only [commandOf, ← BitVec.toNat_inj]
  split_ifs <;> simp_all
  omega

theorem decodeCommand_wellFormed (c : Byte) : (decodeCommand c).WellFormed := by
  simp only [decodeCommand]
  cases h : commandOf c
  case illegal => exact (commandOf_eq_illegal_iff c).1 h
  all_goals trivial

/-- The values of `Instr` no word decodes to do what a well-formed one does (log 6). -/
theorem exists_wellFormed_exec_eq (i : Instr) : ∃ j : Instr, j.WellFormed ∧ exec i = exec j := by
  cases i with
  | hostWr a v =>
    by_cases h : a = cmdAddr
    · exact ⟨decodeCommand v, decodeCommand_wellFormed v, h ▸ funext (exec_hostWr_cmd v)⟩
    · exact ⟨.hostWr a v, h, rfl⟩
  | illegalCmd c => exact ⟨.illegalCmd 0x00#8, .inl rfl, rfl⟩
  | hostRd a => exact ⟨.hostRd a, trivial, rfl⟩
  | encode => exact ⟨.encode, trivial, rfl⟩
  | decode => exact ⟨.decode, trivial, rfl⟩
  | verify => exact ⟨.verify, trivial, rfl⟩
  | frameCk => exact ⟨.frameCk, trivial, rfl⟩
  | clear => exact ⟨.clear, trivial, rfl⟩

/-! ### The cases of each command -/

section Cases
variable (d : Device)

theorem lo8_eq_ofNat (v : Half) : lo8 v = BitVec.ofNat 8 v.toNat := by
  apply BitVec.eq_of_toNat_eq
  rw [lo8_toNat, BitVec.toNat_ofNat]

theorem lo8_eq_ofNat_mod (v : Half) : lo8 v = BitVec.ofNat 8 (v.toNat % 256) := by
  apply BitVec.eq_of_toNat_eq
  rw [lo8_toNat, BitVec.toNat_ofNat]
  omega

theorem hi8_eq_ofNat_div (v : Half) : hi8 v = BitVec.ofNat 8 (v.toNat / 256) := by
  apply BitVec.eq_of_toNat_eq
  have h := v.isLt
  rw [hi8_toNat, BitVec.toNat_ofNat]
  omega

/-- R61: too long, or built. -/
theorem encodeCommand_cases :
    (255 < d.cnt.toNat ∧
      encodeCommand d = { d with status := Status.failed { d.status with txValid := false } 4#4 }) ∨
    (d.cnt.toNat ≤ 255 ∧ encodeCommand d = { d with
      txhdr := ⟨0xAE#8, 0xC1#8, d.txType, BitVec.ofNat 8 d.cnt.toNat, 0x00#8, 0x00#8⟩
      txHlen := 4#8
      txLen := BitVec.ofNat 8 d.cnt.toNat
      status := { d.status with txValid := true, err := 0#4 } }) := by
  by_cases h : 255 < d.cnt.toNat
  · exact .inl ⟨h, by rw [encodeCommand, if_pos h]; rfl⟩
  · exact .inr ⟨by omega, by rw [encodeCommand, if_neg h, lo8_eq_ofNat]; rfl⟩

/-- R72: too long, or built. -/
theorem frameCkCommand_cases :
    (255 < d.cnt.toNat ∧
      frameCkCommand d = { d with status := Status.failed { d.status with txValid := false } 4#4 }) ∨
    (d.cnt.toNat ≤ 255 ∧ frameCkCommand d = { d with
      txhdr := ⟨0xAF#8, 0xC1#8, d.txType, BitVec.ofNat 8 d.cnt.toNat, lo8 (d.pbuf.sum16 d.cnt.toNat),
        hi8 (d.pbuf.sum16 d.cnt.toNat)⟩
      txHlen := 6#8
      txLen := BitVec.ofNat 8 d.cnt.toNat
      ckCalc := d.pbuf.sum16 d.cnt.toNat
      status := { d.status with txValid := true, err := 0#4 } }) := by
  by_cases h : 255 < d.cnt.toNat
  · exact .inl ⟨h, by rw [frameCkCommand, if_pos h]; rfl⟩
  · exact .inr ⟨by omega, by rw [frameCkCommand, if_neg h, lo8_eq_ofNat d.cnt]; rfl⟩

theorem Device.syncOk_iff : d.syncOk = true ↔ SyncAt d := by
  simp [Device.syncOk]

/-- R64: the marker is there, or it is not. -/
theorem decodeHeaderCommand_cases :
    (SyncAt d ∧ decodeHeaderCommand d = { d with
      rxType := d.rxhdr.b2
      rxLen := d.rxhdr.b3
      rxCk := le16 d.rxhdr.b4 d.rxhdr.b5
      status := { d.status with payloadOk := false, hdrValid := true, err := 0#4 } }) ∨
    (¬SyncAt d ∧ decodeHeaderCommand d = { d with
      status := Status.failed { d.status with payloadOk := false, hdrValid := false } 1#4 }) := by
  by_cases h : SyncAt d
  · exact .inl ⟨h, by rw [decodeHeaderCommand, if_pos (d.syncOk_iff.2 h)]; rfl⟩
  · exact .inr ⟨h, by rw [decodeHeaderCommand, if_neg (mt d.syncOk_iff.1 h)]; rfl⟩

/-- A zero-extended length equals CNT when the numbers do (R8, R70). -/
theorem half_eq_setWidth_iff (n : Half) (len : Byte) : n = len.setWidth 16 ↔ n.toNat = len.toNat := by
  have h := len.isLt
  rw [← BitVec.toNat_inj, BitVec.toNat_setWidth, Nat.mod_eq_of_lt (by omega)]

/-- R70 in the order of R82: no header, a wrong count, the right checksum, a wrong one. -/
theorem verifyCommand_cases :
    (d.status.hdrValid = false ∧
      verifyCommand d = { d with status := Status.failed { d.status with payloadOk := false } 5#4 }) ∨
    (d.status.hdrValid = true ∧ d.cnt.toNat ≠ d.rxLen.toNat ∧
      verifyCommand d = { d with status := Status.failed { d.status with payloadOk := false } 3#4 }) ∨
    (d.status.hdrValid = true ∧ d.cnt.toNat = d.rxLen.toNat ∧ d.pbuf.sum16 d.rxLen.toNat = d.rxCk ∧
      verifyCommand d = { d with
        ckCalc := d.pbuf.sum16 d.rxLen.toNat
        status := { d.status with payloadOk := true, err := 0#4 } }) ∨
    (d.status.hdrValid = true ∧ d.cnt.toNat = d.rxLen.toNat ∧ d.pbuf.sum16 d.rxLen.toNat ≠ d.rxCk ∧
      verifyCommand d = { d with
        ckCalc := d.pbuf.sum16 d.rxLen.toNat
        status := Status.failed { d.status with payloadOk := false } 2#4 }) := by
  simp only [verifyCommand, ne_eq, half_eq_setWidth_iff]
  by_cases hv : d.status.hdrValid = true
  · by_cases hc : d.cnt.toNat = d.rxLen.toNat
    · by_cases hs : d.pbuf.sum16 d.rxLen.toNat = d.rxCk
      · exact .inr (.inr (.inl ⟨hv, hc, hs, by rw [if_neg (by simp [hv]), if_neg (by simp [hc]), if_pos hs]; rfl⟩))
      · exact .inr (.inr (.inr ⟨hv, hc, hs, by rw [if_neg (by simp [hv]), if_neg (by simp [hc]), if_neg hs]; rfl⟩))
    · exact .inr (.inl ⟨hv, hc, by rw [if_neg (by simp [hv]), if_pos hc]; rfl⟩)
  · have hv : d.status.hdrValid = false := by simpa using hv
    exact .inl ⟨hv, by rw [if_pos (by simp [hv])]; rfl⟩

end Cases

/-! ### What each command, and a host write, leaves unchanged -/

section Frames
variable (d : Device)

@[simp] theorem encodeCommand_frame :
    (encodeCommand d).pbuf = d.pbuf ∧ (encodeCommand d).txType = d.txType ∧ (encodeCommand d).cnt = d.cnt ∧
    (encodeCommand d).rxhdr = d.rxhdr ∧ (encodeCommand d).rxType = d.rxType ∧ (encodeCommand d).rxLen = d.rxLen ∧
    (encodeCommand d).rxCk = d.rxCk ∧ (encodeCommand d).ckCalc = d.ckCalc ∧
    (encodeCommand d).status.hdrValid = d.status.hdrValid ∧
    (encodeCommand d).status.payloadOk = d.status.payloadOk := by
  obtain ⟨-, e⟩ | ⟨-, e⟩ := encodeCommand_cases d <;> simp [e]

@[simp] theorem frameCkCommand_frame :
    (frameCkCommand d).pbuf = d.pbuf ∧ (frameCkCommand d).txType = d.txType ∧ (frameCkCommand d).cnt = d.cnt ∧
    (frameCkCommand d).rxhdr = d.rxhdr ∧ (frameCkCommand d).rxType = d.rxType ∧
    (frameCkCommand d).rxLen = d.rxLen ∧ (frameCkCommand d).rxCk = d.rxCk ∧
    (frameCkCommand d).status.hdrValid = d.status.hdrValid ∧
    (frameCkCommand d).status.payloadOk = d.status.payloadOk := by
  obtain ⟨-, e⟩ | ⟨-, e⟩ := frameCkCommand_cases d <;> simp [e]

@[simp] theorem decodeHeaderCommand_frame :
    (decodeHeaderCommand d).pbuf = d.pbuf ∧ (decodeHeaderCommand d).txType = d.txType ∧
    (decodeHeaderCommand d).cnt = d.cnt ∧ (decodeHeaderCommand d).txHlen = d.txHlen ∧
    (decodeHeaderCommand d).txLen = d.txLen ∧ (decodeHeaderCommand d).txhdr = d.txhdr ∧
    (decodeHeaderCommand d).rxhdr = d.rxhdr ∧ (decodeHeaderCommand d).ckCalc = d.ckCalc ∧
    (decodeHeaderCommand d).status.txValid = d.status.txValid ∧
    (decodeHeaderCommand d).status.payloadOk = false := by
  obtain ⟨-, e⟩ | ⟨-, e⟩ := decodeHeaderCommand_cases d <;> simp [e]

@[simp] theorem verifyCommand_frame :
    (verifyCommand d).pbuf = d.pbuf ∧ (verifyCommand d).txType = d.txType ∧ (verifyCommand d).cnt = d.cnt ∧
    (verifyCommand d).txHlen = d.txHlen ∧ (verifyCommand d).txLen = d.txLen ∧ (verifyCommand d).txhdr = d.txhdr ∧
    (verifyCommand d).rxhdr = d.rxhdr ∧ (verifyCommand d).rxType = d.rxType ∧ (verifyCommand d).rxLen = d.rxLen ∧
    (verifyCommand d).rxCk = d.rxCk ∧ (verifyCommand d).status.hdrValid = d.status.hdrValid ∧
    (verifyCommand d).status.txValid = d.status.txValid := by
  obtain ⟨-, e⟩ | ⟨-, -, e⟩ | ⟨-, -, -, e⟩ | ⟨-, -, -, e⟩ := verifyCommand_cases d <;> simp [e]

theorem clearCommand_eq : clearCommand d = { d with
    status := ⟨0#4, false, false, false, false⟩
    txhdr := ⟨0#8, 0#8, 0#8, 0#8, 0#8, 0#8⟩
    txHlen := 0#8
    txLen := 0#8
    rxType := 0#8
    rxLen := 0#8
    rxCk := 0#16
    ckCalc := 0#16 } := rfl

theorem illegalCommand_eq : illegalCommand d = { d with status := Status.failed d.status 6#4 } := rfl

/-- A host write to any place but CMD reaches no item a command alone writes (R38). -/
theorem Device.memWrite_keeps_results {a : Addr} (h : a ≠ cmdAddr) (v : Byte) :
    (d.memWrite a v).status = d.status ∧ (d.memWrite a v).txHlen = d.txHlen ∧ (d.memWrite a v).txLen = d.txLen ∧
    (d.memWrite a v).txhdr = d.txhdr ∧ (d.memWrite a v).rxType = d.rxType ∧ (d.memWrite a v).rxLen = d.rxLen ∧
    (d.memWrite a v).rxCk = d.rxCk ∧ (d.memWrite a v).ckCalc = d.ckCalc := by
  obtain ⟨-, e⟩ | ⟨hc, -⟩ | ⟨-, e⟩ | ⟨-, e⟩ | ⟨-, e⟩ | ⟨-, -, e⟩ | ⟨-, e⟩ := d.memWrite_cases a v
  case inr.inl => exact absurd (BitVec.eq_of_toNat_eq hc) h
  all_goals simp [e]

end Frames

/-! ### The FRAME view -/

section FrameView
variable (d : Device)

theorem Device.frameByte_eq_specFrame (i : Nat) : d.frameByte i = specFrame d i := by
  simp [Device.frameByte, specFrame]

theorem Device.frameByte_hidden (h : d.status.txValid = false) (i : Nat) : d.frameByte i = 0x00#8 := by
  simp [Device.frameByte, h]

/-- A visible frame is its header followed by the payload as PBUF holds it now (R27). -/
theorem Device.frame_eq_header_append_payload (h : d.status.txValid = true) :
    d.frame (d.txHlen.toNat + d.txLen.toNat) =
      (List.range d.txHlen.toNat).map d.txhdr.get ++ d.pbuf.payload d.txLen.toNat := by
  simp only [Device.frame, Memory.payload, List.range_add, List.map_append, List.map_map]
  congr 1
  · refine List.map_congr_left fun i hi => ?_
    simp [Device.frameByte, h, List.mem_range.1 hi]
  · refine List.map_congr_left fun i hi => ?_
    simp [Device.frameByte, h, List.mem_range.1 hi]

variable {a : Addr} (ha : 0x200 ≤ a.toNat)
include ha

theorem Device.memRead_frame : d.memRead a = d.frameByte (a.toNat - 0x200) := by
  simp [Device.memRead, placeOf_frame ha]

theorem Device.memWrite_frame (v : Byte) : d.memWrite a v = d := by
  simp [Device.memWrite, placeOf_frame ha]

end FrameView

end Sys2Proof.Machine
end

section
/-! SUPPORT. What the host reads and writes at the places of the register space, and what a command sees of PBUF. -/

namespace Sys2Proof.Machine

open Sys2Proof.Certificates

theorem After.imp {i : Instr} {s : State} {P Q : State → Prop} (h : ∀ t, P t → Q t) (hP : After i s P) :
    After i s Q := by
  obtain ⟨t, ht, hP⟩ := hP
  exact ⟨t, ht, h t hP⟩

theorem after_congr {i j : Instr} (h : exec i = exec j) (s : State) (P : State → Prop) :
    After i s P ↔ After j s P := by
  simp only [After, h]

/-! ### The places of the register space -/

section Places
variable (d : Device) {a : Addr}

theorem placeOf_txhdr (h : 0x108 ≤ a.toNat) (h' : a.toNat ≤ 0x10D) : placeOf a = .txhdr (a.toNat - 0x108) := by
  unfold placeOf
  generalize a.toNat = n at *
  interval_cases n <;> rfl

theorem Device.memRead_pbuf (h : a.toNat ≤ 0xFF) : d.memRead a = d.pbuf.read a.toNat := by
  simp [Device.memRead, placeOf_pbuf h]

theorem Device.memWrite_pbuf (h : a.toNat ≤ 0xFF) (v : Byte) :
    d.memWrite a v = { d with pbuf := d.pbuf.write a.toNat v } := by
  simp [Device.memWrite, placeOf_pbuf h]

theorem Device.memRead_rxhdr (h : 0x110 ≤ a.toNat) (h' : a.toNat ≤ 0x115) :
    d.memRead a = d.rxhdr.get (a.toNat - 0x110) := by
  simp [Device.memRead, placeOf_rxhdr h h']

theorem Device.memWrite_rxhdr (h : 0x110 ≤ a.toNat) (h' : a.toNat ≤ 0x115) (v : Byte) :
    d.memWrite a v = { d with rxhdr := d.rxhdr.set (a.toNat - 0x110) v } := by
  simp [Device.memWrite, placeOf_rxhdr h h']

theorem Device.memRead_txhdr (h : 0x108 ≤ a.toNat) (h' : a.toNat ≤ 0x10D) :
    d.memRead a = d.txhdr.get (a.toNat - 0x108) := by
  simp [Device.memRead, placeOf_txhdr h h']

@[simp] theorem Device.memRead_cmd : d.memRead 0x100#10 = 0x00#8 := rfl
@[simp] theorem Device.memRead_txType : d.memRead 0x102#10 = d.txType := rfl
@[simp] theorem Device.memRead_txHlen : d.memRead 0x106#10 = d.txHlen := rfl
@[simp] theorem Device.memRead_txLen : d.memRead 0x107#10 = d.txLen := rfl
@[simp] theorem Device.memRead_rxType : d.memRead 0x118#10 = d.rxType := rfl
@[simp] theorem Device.memRead_rxLen : d.memRead 0x119#10 = d.rxLen := rfl
@[simp] theorem Device.memRead_rxCkLo : d.memRead 0x11A#10 = lo8 d.rxCk := rfl
@[simp] theorem Device.memRead_rxCkHi : d.memRead 0x11B#10 = hi8 d.rxCk := rfl
@[simp] theorem Device.memRead_ckCalcLo : d.memRead 0x11C#10 = lo8 d.ckCalc := rfl
@[simp] theorem Device.memRead_ckCalcHi : d.memRead 0x11D#10 = hi8 d.ckCalc := rfl
@[simp] theorem Device.memWrite_txType (v : Byte) : d.memWrite 0x102#10 v = { d with txType := v } := rfl

end Places

/-! ### A command and PBUF -/

theorem exists_command_of_isCommand {i : Instr} (hi : IsCommand i) :
    ∃ c : Command, ∀ s, exec i s = .next (s.withDev (s.dev.runCommand c)) := by
  cases i with
  | hostRd => exact hi.elim
  | hostWr => exact hi.elim
  | encode => exact ⟨.encode, fun _ => rfl⟩
  | decode => exact ⟨.decode, fun _ => rfl⟩
  | verify => exact ⟨.verify, fun _ => rfl⟩
  | frameCk => exact ⟨.frameCk, fun _ => rfl⟩
  | clear => exact ⟨.clear, fun _ => rfl⟩
  | illegalCmd => exact ⟨.illegal, fun _ => rfl⟩

theorem isCommand_keeps_inputs {i : Instr} (hi : IsCommand i) (s : State) : After i s fun t =>
    t.dev.pbuf = s.dev.pbuf ∧ t.dev.txType = s.dev.txType ∧ t.dev.cnt = s.dev.cnt ∧ t.dev.rxhdr = s.dev.rxhdr := by
  obtain ⟨c, hc⟩ := exists_command_of_isCommand hi
  exact ⟨_, hc s, s.dev.runCommand_inputs c⟩

/-- A command sees PBUF only through the sum it takes: with another PBUF of the same sum it does the same. -/
theorem Device.runCommand_withPbuf (d : Device) (m : Memory) (c : Command)
    (hv : c = .verify → m.sum16 d.rxLen.toNat = d.pbuf.sum16 d.rxLen.toNat)
    (hf : c = .frameCk → d.cnt.toNat ≤ 255 → m.sum16 d.cnt.toNat = d.pbuf.sum16 d.cnt.toNat) :
    { d with pbuf := m }.runCommand c = { d.runCommand c with pbuf := m } := by
  cases c with
  | encode => simp only [runCommand, encodeCommand]; split <;> rfl
  | decode =>
    have hsync : { d with pbuf := m }.syncOk = d.syncOk := rfl
    cases h : d.syncOk <;> simp only [runCommand, decodeHeaderCommand, hsync, h] <;> rfl
  | verify => simp only [runCommand, verifyCommand, hv rfl]; split_ifs <;> rfl
  | frameCk =>
    simp only [runCommand, frameCkCommand]
    split
    · rfl
    · rw [hf rfl (Nat.not_lt.1 ‹_›)]; rfl
  | clear => rfl
  | illegal => rfl

/-- No command sums a byte from index 255 on, since no payload is longer (R14). -/
theorem Memory.sum16_write_255 (m : Memory) (v : Byte) {n : Nat} (hn : n ≤ 255) :
    (m.write 255 v).sum16 n = m.sum16 n :=
  Memory.sum16_congr fun i hi => m.read_write_other v (by omega)

theorem Device.runCommand_write_255 (d : Device) (v : Byte) (c : Command) :
    { d with pbuf := d.pbuf.write 255 v }.runCommand c = { d.runCommand c with pbuf := d.pbuf.write 255 v } :=
  d.runCommand_withPbuf _ c (fun _ => d.pbuf.sum16_write_255 v (by have := d.rxLen.isLt; omega))
    fun _ hn => d.pbuf.sum16_write_255 v hn

end Sys2Proof.Machine
end

section
/-! CERTIFICATES. The state family: CMD, FRAME, PBUF, the host's inputs, the flags and the result registers. -/

namespace Sys2Proof.Proofs

open Sys2Proof.Machine Sys2Proof.Certificates

/-- Settles O17: a CMD write, as an instruction and as a bus word, is the command row of its data. -/
theorem cmdRegister : Obligations.CmdRegister := by
  intro s c
  refine ⟨?_, exec_hostWr_cmd c s, ?_⟩
  · rw [exec_hostRd, Device.memRead_cmd]; rfl
  · rw [decodeWord_cmdWrite]

/-- A successful ENCODE makes the no-checksum frame of the payload (R27, R59, R61). -/
theorem encodeCommand_frameNoCk {d : Device} (h : d.cnt.toNat ≤ 255) :
    (encodeCommand d).frame (4 + (encodeCommand d).txLen.toNat) = frameNoCk d.txType (d.pbuf.payload d.cnt.toNat) := by
  obtain ⟨-, e⟩ := (encodeCommand_cases d).resolve_left fun hlong => h.not_gt hlong.1
  have hlen : (BitVec.ofNat 8 d.cnt.toNat).toNat = d.cnt.toNat := by rw [BitVec.toNat_ofNat]; omega
  have hframe := (encodeCommand d).frame_eq_header_append_payload (by rw [e])
  rw [e] at hframe ⊢
  rw [hlen] at hframe ⊢
  refine hframe.trans ?_
  simp [frameNoCk, Memory.payload, List.range_succ, Header.get]

/-- Settles O16: FRAME is a view that a write cannot reach; after ENCODE it shows the frame built. -/
theorem frameWindow : Obligations.FrameWindow := by
  refine ⟨fun a v s ha => ⟨?_, ?_⟩, fun s hcnt => ?_⟩
  · rw [exec_hostRd, Device.memRead_frame _ ha, Device.frameByte_eq_specFrame]; rfl
  · rw [exec_hostWr, Device.memWrite_frame _ ha, State.withDev_self]
  · rw [after_encode]
    exact encodeCommand_frameNoCk hcnt

/-- Settles O20: a command sees PBUF only through a sum of at most 255 bytes, and PBUF[255] is in none. -/
theorem payloadBuffer : Obligations.PayloadBuffer := by
  refine ⟨fun a v s ha => ⟨?_, ?_⟩, fun i s v hi => ?_, fun j => Memory.read_fresh _ j⟩
  · rw [exec_hostRd, Device.memRead_pbuf _ ha]; rfl
  · rw [after_hostWr, Device.memWrite_pbuf _ ha]
    refine ⟨rfl, fun j => ?_⟩
    rw [State.withDev_dev, Memory.read_write]
    exact if_congr eq_comm rfl rfl
  · obtain ⟨c, hc⟩ := exists_command_of_isCommand hi
    have hpbuf := (s.dev.runCommand_inputs c).1
    refine ⟨_, hc s, hpbuf, ?_⟩
    rw [hc, State.withDev_dev, hpbuf, Device.runCommand_write_255]
    rfl

/-- Settles O22: by the two places of the register space, and by the cases of ENCODE, FRAME_CK and DECODE. -/
theorem txTypeAndRxhdr : Obligations.TxTypeAndRxhdr := by
  intro s v
  refine ⟨?_, ?_, fun a h h' => ⟨?_, ?_⟩, fun i hi => ?_, fun hcnt => ⟨?_, ?_⟩, fun hsync => ?_, rfl, rfl⟩
  · rw [exec_hostRd, Device.memRead_txType]; rfl
  · rw [exec_hostWr, Device.memWrite_txType]; rfl
  · rw [exec_hostRd, Device.memRead_rxhdr _ h h']; rfl
  · rw [after_hostWr, Device.memWrite_rxhdr _ h h']
    refine ⟨by simp only [State.withDev], fun k hk => ?_⟩
    have hi : a.toNat - 0x110 < 6 := by omega
    rw [State.withDev_dev, Header.get_set _ hi hk]
    exact if_congr eq_comm rfl rfl
  · exact (isCommand_keeps_inputs hi s).imp fun t ⟨_, htype, _, hhdr⟩ => ⟨htype, hhdr⟩
  · obtain ⟨-, e⟩ := (encodeCommand_cases s.dev).resolve_left fun h => hcnt.not_gt h.1
    simp [e]
  · obtain ⟨-, e⟩ := (frameCkCommand_cases s.dev).resolve_left fun h => hcnt.not_gt h.1
    simp [e]
  · obtain ⟨-, e⟩ := (decodeHeaderCommand_cases s.dev).resolve_right fun h => h.1 hsync
    simp [e]

/-! ### STATUS -/

/-- Settles O24: by the cases of DECODE and VERIFY; every other transaction keeps the flag. -/
theorem hdrValidWriters : Obligations.HdrValidWriters := by
  intro s
  refine ⟨?_, ?_, rfl, fun i hwf hdec hclr => ?_, ?_⟩
  · rw [after_decode, State.withDev_dev]
    obtain ⟨h, e⟩ | ⟨h, e⟩ := decodeHeaderCommand_cases s.dev <;> rw [e]
    · exact iff_of_true rfl h
    · exact iff_of_false Bool.false_ne_true h
  · simp [clearCommand_eq]
  · cases i with
    | hostRd a => simp
    | hostWr a v => simp [s.dev.memWrite_keeps_results hwf]
    | encode => simp
    | decode => exact absurd rfl hdec
    | verify => simp
    | frameCk => simp
    | clear => exact absurd rfl hclr
    | illegalCmd c => simp [illegalCommand_eq]
  · obtain ⟨h, e⟩ | ⟨h, -, e⟩ | ⟨h, -, -, e⟩ | ⟨h, -, -, e⟩ := verifyCommand_cases s.dev <;> simp [e, h]

/-- Settles O25: by the cases of VERIFY; every transaction but three keeps the flag. -/
theorem payloadOkWriters : Obligations.PayloadOkWriters := by
  intro s
  refine ⟨?_, ?_, ?_, rfl, fun i hwf hver hdec hclr => ?_⟩
  · obtain ⟨-, e⟩ | ⟨-, -, e⟩ | ⟨-, -, -, e⟩ | ⟨-, -, -, e⟩ := verifyCommand_cases s.dev <;> simp [e]
  · simp
  · simp [clearCommand_eq]
  · cases i with
    | hostRd a => simp
    | hostWr a v => simp [s.dev.memWrite_keeps_results hwf]
    | encode => simp
    | decode => exact absurd rfl hdec
    | verify => exact absurd rfl hver
    | frameCk => simp
    | clear => exact absurd rfl hclr
    | illegalCmd c => simp [illegalCommand_eq]

/-- Settles O26: by the cases of the two builds; a hidden FRAME reads 0x00 whatever lies under it. -/
theorem txValidWriters : Obligations.TxValidWriters := by
  intro s
  refine ⟨?_, ?_, rfl, fun i hwf henc hfck hclr => ?_, fun hhid a ha => ?_⟩
  · rintro i (rfl | rfl)
    · obtain ⟨-, e⟩ | ⟨-, e⟩ := encodeCommand_cases s.dev <;> simp [e]
    · obtain ⟨-, e⟩ | ⟨-, e⟩ := frameCkCommand_cases s.dev <;> simp [e]
  · simp [clearCommand_eq]
  · cases i with
    | hostRd a => simp
    | hostWr a v => simp [s.dev.memWrite_keeps_results hwf]
    | encode => exact absurd rfl henc
    | decode => simp
    | verify => simp
    | frameCk => exact absurd rfl hfck
    | clear => exact absurd rfl hclr
    | illegalCmd c => simp [illegalCommand_eq]
  · rw [exec_hostRd, Device.memRead_frame _ ha, Device.frameByte_hidden _ hhid]; rfl

/-- Settles O27: by the cases of each command. -/
theorem anyErrIsSticky : Obligations.AnyErrIsSticky := by
  intro s
  refine ⟨fun i hi hclr => ?_, by simp [clearCommand_eq], rfl⟩
  cases i with
  | hostRd a => exact hi.elim
  | hostWr a v => exact hi.elim
  | encode => obtain ⟨-, e⟩ | ⟨-, e⟩ := encodeCommand_cases s.dev <;> simp [e]
  | decode => obtain ⟨-, e⟩ | ⟨-, e⟩ := decodeHeaderCommand_cases s.dev <;> simp [e]
  | verify =>
    obtain ⟨-, e⟩ | ⟨-, -, e⟩ | ⟨-, -, -, e⟩ | ⟨-, -, -, e⟩ := verifyCommand_cases s.dev <;> simp [e]
  | frameCk => obtain ⟨-, e⟩ | ⟨-, e⟩ := frameCkCommand_cases s.dev <;> simp [e]
  | clear => exact absurd rfl hclr
  | illegalCmd c => simp [illegalCommand_eq]

/-! ### The transmit registers -/

/-- R24 to R26: a transaction that is no successful build and no CLEAR leaves the latched header. -/
theorem transmit_registers_kept {i : Instr} {s : State} (hwf : i.WellFormed)
    (hlong : i = .encode ∨ i = .frameCk → 255 < s.dev.cnt.toNat) (hclr : i ≠ .clear) :
    After i s fun t => t.dev.txHlen = s.dev.txHlen ∧ t.dev.txLen = s.dev.txLen ∧ t.dev.txhdr = s.dev.txhdr := by
  cases i with
  | hostRd a => simp
  | hostWr a v => simp [s.dev.memWrite_keeps_results hwf]
  | encode =>
    obtain ⟨-, e⟩ := (encodeCommand_cases s.dev).resolve_right fun h => h.1.not_gt (hlong (.inl rfl))
    simp [e]
  | decode => simp
  | verify => simp
  | frameCk =>
    obtain ⟨-, e⟩ := (frameCkCommand_cases s.dev).resolve_right fun h => h.1.not_gt (hlong (.inr rfl))
    simp [e]
  | clear => exact absurd rfl hclr
  | illegalCmd c => simp [illegalCommand_eq]

theorem txHlen_values_kept (i : Instr) {s : State}
    (h : s.dev.txHlen = 0#8 ∨ s.dev.txHlen = 4#8 ∨ s.dev.txHlen = 6#8) :
    After i s fun t => t.dev.txHlen = 0#8 ∨ t.dev.txHlen = 4#8 ∨ t.dev.txHlen = 6#8 := by
  obtain ⟨j, hwf, hj⟩ := exists_wellFormed_exec_eq i
  rw [after_congr hj]
  cases j with
  | hostRd a => simpa
  | hostWr a v => simpa [s.dev.memWrite_keeps_results hwf]
  | encode => obtain ⟨-, e⟩ | ⟨-, e⟩ := encodeCommand_cases s.dev <;> simp [e, h]
  | decode => simpa
  | verify => simpa
  | frameCk => obtain ⟨-, e⟩ | ⟨-, e⟩ := frameCkCommand_cases s.dev <;> simp [e, h]
  | clear => simp [clearCommand_eq]
  | illegalCmd c => simpa [illegalCommand_eq]

/-- R25: TX_LEN agrees with TXHDR[3] while a frame is shown. -/
theorem txLen_agrees_kept (i : Instr) {s : State} (h : s.dev.status.txValid = true → s.dev.txLen = s.dev.txhdr.b3) :
    After i s fun t => t.dev.status.txValid = true → t.dev.txLen = t.dev.txhdr.b3 := by
  obtain ⟨j, hwf, hj⟩ := exists_wellFormed_exec_eq i
  rw [after_congr hj]
  cases j with
  | hostRd a => simpa
  | hostWr a v => simpa [s.dev.memWrite_keeps_results hwf]
  | encode => obtain ⟨-, e⟩ | ⟨-, e⟩ := encodeCommand_cases s.dev <;> simp [e]
  | decode => simpa
  | verify => simpa
  | frameCk => obtain ⟨-, e⟩ | ⟨-, e⟩ := frameCkCommand_cases s.dev <;> simp [e]
  | clear => simp [clearCommand_eq]
  | illegalCmd c => simpa [illegalCommand_eq]

/-- R26: a header of four bytes ends before the checksum bytes. -/
theorem frameByte_four_ignores_checksum {d : Device} (h : d.txHlen = 4#8) (x y : Byte) (k : Nat) :
    { d with txhdr := { d.txhdr with b4 := x, b5 := y } }.frameByte k = d.frameByte k := by
  by_cases hk : k < 4
  · interval_cases k <;> simp [Device.frameByte, h, Header.get]
  · simp [Device.frameByte, h, hk]

theorem memRead_transmit_registers (d : Device) {a : Addr} (h : 0x106 ≤ a.toNat) (h' : a.toNat ≤ 0x10D) :
    d.memRead a = if a.toNat = 0x106 then d.txHlen else if a.toNat = 0x107 then d.txLen
      else d.txhdr.get (a.toNat - 0x108) := by
  split_ifs with h6 h7
  · rw [show a = 0x106#10 from BitVec.eq_of_toNat_eq h6, Device.memRead_txHlen]
  · rw [show a = 0x107#10 from BitVec.eq_of_toNat_eq h7, Device.memRead_txLen]
  · exact d.memRead_txhdr (by omega) h'

/-- Settles O29: a build latches the header, CLEAR zeroes it, and every other transaction keeps it. -/
theorem transmitRegisters : Obligations.TransmitRegisters := by
  intro s
  refine ⟨fun hcnt => ⟨?_, ?_⟩, fun i hwf hlong hclr => transmit_registers_kept hwf hlong hclr, ?_, ⟨rfl, rfl, rfl⟩,
    fun i h => txHlen_values_kept i h, fun i h => txLen_agrees_kept i h, frameByte_four_ignores_checksum,
    fun a h h' => ?_⟩
  · obtain ⟨-, e⟩ := (encodeCommand_cases s.dev).resolve_left fun h => hcnt.not_gt h.1
    simp [e]
  · obtain ⟨-, e⟩ := (frameCkCommand_cases s.dev).resolve_left fun h => hcnt.not_gt h.1
    simp [e]
  · simp [clearCommand_eq]
  · rw [after_hostRd, State.answer_answers, memRead_transmit_registers s.dev h h']

/-! ### The receive registers and CK_CALC -/

/-- Settles O35: only a passing DECODE and CLEAR write the registers; VERIFY compares with them in R82's order. -/
theorem receiveRegisters : Obligations.ReceiveRegisters := by
  intro s
  refine ⟨fun i hwf => ?_, ⟨rfl, rfl, rfl⟩, ?_, fun hhdr => ?_⟩
  · cases i with
    | hostRd a => simp
    | hostWr a v => simp [s.dev.memWrite_keeps_results hwf]
    | encode => simp
    | decode => obtain ⟨h, e⟩ | ⟨h, e⟩ := decodeHeaderCommand_cases s.dev <;> simp [e, h, le16_toNat]
    | verify => simp
    | frameCk => simp
    | clear => simp [clearCommand_eq]
    | illegalCmd c => simp [illegalCommand_eq]
  · simp [lo8_eq_ofNat_mod, hi8_eq_ofNat_div]
  · obtain ⟨h, -⟩ | ⟨-, h, e⟩ | ⟨-, h, hs, e⟩ | ⟨-, h, hs, e⟩ := verifyCommand_cases s.dev
    · exact absurd (hhdr.symm.trans h) (by decide)
    · simp [e, h]
    · simp [e, h, hs]
    · simp [e, h, hs]

/-- Settles O38: only a VERIFY that sums, a successful FRAME_CK and CLEAR write CK_CALC. -/
theorem ckCalcWriters : Obligations.CkCalcWriters := by
  intro s
  refine ⟨fun i hwf => ?_, rfl, ?_⟩
  · cases i with
    | hostRd a => simp
    | hostWr a v => simp [s.dev.memWrite_keeps_results hwf]
    | encode => simp
    | decode => simp
    | verify =>
      obtain ⟨-, e⟩ | ⟨-, -, e⟩ | ⟨-, -, -, e⟩ | ⟨-, -, -, e⟩ := verifyCommand_cases s.dev <;> simp [e]
    | frameCk => obtain ⟨-, e⟩ | ⟨-, e⟩ := frameCkCommand_cases s.dev <;> simp [e]
    | clear => simp [clearCommand_eq]
    | illegalCmd c => simp [illegalCommand_eq]
  · simp [lo8_eq_ofNat_mod, hi8_eq_ofNat_div]

end Sys2Proof.Proofs
end

section
/-! SUPPORT. The whole address decode of R37 and R38, and what one transaction does to one byte of PBUF. -/

namespace Sys2Proof.Machine

open Sys2Proof.Certificates

/-! ### The answer of a read -/

theorem Status.toByte_eq_ofNat (st : Status) : st.toByte = BitVec.ofNat 8 (st.err.toNat + 16 * st.hdrValid.toNat +
    32 * st.payloadOk.toNat + 64 * st.txValid.toNat + 128 * st.anyErr.toNat) := by
  rw [← st.toByte_toNat, BitVec.ofNat_toNat, BitVec.setWidth_eq]

section AddressDecode
variable (d : Device) {a : Addr}

/-- R36: the reserved addresses are in no other row of R35's table. -/
theorem placeOf_reserved (ha : ReservedAddr a.toNat) : placeOf a = .reserved := by
  simp (disch := omega) only [placeOf, placeAt, ↓if_neg]

theorem Device.memRead_reserved (ha : ReservedAddr a.toNat) : d.memRead a = 0x00#8 := by
  simp only [Device.memRead, placeOf_reserved ha]

/-- For the rows of the table that name one address: the answer there is the answer at `a`. -/
theorem Device.eq_memRead_of_toNat {n : Nat} {b : Byte} (h : a.toNat = n) (hb : d.memRead (BitVec.ofNat 10 n) = b) :
    b = d.memRead a := by
  rw [← hb, ← h, BitVec.ofNat_toNat, BitVec.setWidth_eq]

/-- R37, row by row of the spec's table; what no row names is reserved. The rows are peeled off one at a time because
`split_ifs` takes time exponential in their number. -/
theorem Device.specMemRead_eq_memRead (a : Addr) : specMemRead d a.toNat = d.memRead a := by
  unfold specMemRead
  refine ite_eq_iff'.2 ⟨fun hpbuf => (d.memRead_pbuf hpbuf).symm, fun _ => ?_⟩
  refine ite_eq_iff'.2 ⟨fun hcmd => d.eq_memRead_of_toNat hcmd rfl, fun _ => ?_⟩
  refine ite_eq_iff'.2 ⟨fun hstatus => d.eq_memRead_of_toNat hstatus d.status.toByte_eq_ofNat, fun _ => ?_⟩
  refine ite_eq_iff'.2 ⟨fun htxType => d.eq_memRead_of_toNat htxType rfl, fun _ => ?_⟩
  refine ite_eq_iff'.2 ⟨fun hcntLo => d.eq_memRead_of_toNat hcntLo (lo8_eq_ofNat_mod d.cnt), fun _ => ?_⟩
  refine ite_eq_iff'.2 ⟨fun hcntHi => d.eq_memRead_of_toNat hcntHi (hi8_eq_ofNat_div d.cnt), fun _ => ?_⟩
  refine ite_eq_iff'.2 ⟨fun htxHlen => d.eq_memRead_of_toNat htxHlen rfl, fun _ => ?_⟩
  refine ite_eq_iff'.2 ⟨fun htxLen => d.eq_memRead_of_toNat htxLen rfl, fun _ => ?_⟩
  refine ite_eq_iff'.2 ⟨fun htxhdr => (d.memRead_txhdr htxhdr.1 htxhdr.2).symm, fun _ => ?_⟩
  refine ite_eq_iff'.2 ⟨fun hrxhdr => (d.memRead_rxhdr hrxhdr.1 hrxhdr.2).symm, fun _ => ?_⟩
  refine ite_eq_iff'.2 ⟨fun hrxType => d.eq_memRead_of_toNat hrxType rfl, fun _ => ?_⟩
  refine ite_eq_iff'.2 ⟨fun hrxLen => d.eq_memRead_of_toNat hrxLen rfl, fun _ => ?_⟩
  refine ite_eq_iff'.2 ⟨fun hrxCkLo => d.eq_memRead_of_toNat hrxCkLo (lo8_eq_ofNat_mod d.rxCk), fun _ => ?_⟩
  refine ite_eq_iff'.2 ⟨fun hrxCkHi => d.eq_memRead_of_toNat hrxCkHi (hi8_eq_ofNat_div d.rxCk), fun _ => ?_⟩
  refine ite_eq_iff'.2 ⟨fun hckCalcLo => d.eq_memRead_of_toNat hckCalcLo (lo8_eq_ofNat_mod d.ckCalc), fun _ => ?_⟩
  refine ite_eq_iff'.2 ⟨fun hckCalcHi => d.eq_memRead_of_toNat hckCalcHi (hi8_eq_ofNat_div d.ckCalc), fun _ => ?_⟩
  refine ite_eq_iff'.2 ⟨fun hframe => ((d.memRead_frame hframe.1).trans (d.frameByte_eq_specFrame _)).symm, fun _ => ?_⟩
  have hmax := a.isLt
  exact (d.memRead_reserved (by omega)).symm

/-! ### The effect of a write -/

theorem Device.memWrite_notWritable (h : HostWritable (placeOf a) = false) (v : Byte) : d.memWrite a v = d := by
  cases hp : placeOf a <;> simp [Device.memWrite, hp, HostWritable] at h ⊢

theorem le16_hi8_eq_ofNat (n : Half) (v : Byte) : le16 v (hi8 n) = BitVec.ofNat 16 (n.toNat / 256 * 256 + v.toNat) := by
  rw [← hi8_toNat, ← le16_toNat, BitVec.ofNat_toNat, BitVec.setWidth_eq]

theorem le16_lo8_eq_ofNat (n : Half) (v : Byte) : le16 (lo8 n) v = BitVec.ofNat 16 (v.toNat * 256 + n.toNat % 256) := by
  rw [← lo8_toNat, ← le16_toNat, BitVec.ofNat_toNat, BitVec.setWidth_eq]

theorem Device.memWrite_eq_specMemWrite (hcmd : a.toNat ≠ 0x100) (v : Byte) :
    d.memWrite a v = specMemWrite d a.toNat v := by
  unfold specMemWrite
  split_ifs with hpbuf htype hlo hhi hrx
  · exact d.memWrite_pbuf hpbuf v
  · simp only [Device.memWrite, placeOf_txType htype]
  · simp only [Device.memWrite, placeOf_cntLo hlo, le16_hi8_eq_ofNat]
  · simp only [Device.memWrite, placeOf_cntHi hhi, le16_lo8_eq_ofNat]
  · exact d.memWrite_rxhdr hrx.1 hrx.2 v
  · exact d.memWrite_notWritable (placeOf_notWritable (by omega) htype hlo hhi hrx) v

end AddressDecode

/-! ### One byte of PBUF -/

/-- R38 on PBUF[j]: only a write to the address j reaches it. -/
theorem Device.pbuf_read_memWrite (d : Device) (a : Addr) (v : Byte) {j : Nat} (hj : j < 256) :
    (d.memWrite a v).pbuf.read j = if a.toNat = j then v else d.pbuf.read j := by
  by_cases ha : a.toNat ≤ 0xFF
  · rw [d.memWrite_pbuf ha, Memory.read_write]
  · have hkept : (d.memWrite a v).pbuf = d.pbuf := by
      obtain ⟨h, -⟩ | ⟨-, e⟩ | ⟨-, e⟩ | ⟨-, e⟩ | ⟨-, e⟩ | ⟨-, -, e⟩ | ⟨-, e⟩ := d.memWrite_cases a v
      case inl => exact absurd h ha
      case inr.inl => rw [e, (d.runCommand_inputs _).1]
      all_goals rw [e]
    rw [hkept, if_neg (by omega)]

theorem after_pbuf_read (i : Instr) (s : State) {j : Nat} (hj : j < 256) : After i s fun t =>
    t.dev.pbuf.read j = (writesPbuf j i).getD (s.dev.pbuf.read j) := by
  have hkept (hi : IsCommand i) : After i s fun t => t.dev.pbuf.read j = s.dev.pbuf.read j :=
    (isCommand_keeps_inputs hi s).imp fun t ⟨hpbuf, _⟩ => by rw [hpbuf]
  cases i with
  | hostRd a => exact (after_hostRd a).2 rfl
  | hostWr a v =>
    rw [after_hostWr, State.withDev_dev, Device.pbuf_read_memWrite _ _ _ hj, writesPbuf]
    split <;> rfl
  | encode => exact hkept trivial
  | decode => exact hkept trivial
  | verify => exact hkept trivial
  | frameCk => exact hkept trivial
  | clear => exact hkept trivial
  | illegalCmd c => exact hkept trivial

theorem afterAll_pbuf_read (is : List Instr) (s : State) {j : Nat} (hj : j < 256) : AfterAll is s fun t =>
    t.dev.pbuf.read j = lastPbufWrite j is (s.dev.pbuf.read j) := by
  induction is generalizing s with
  | nil => exact afterAll_nil.2 rfl
  | cons i is ih =>
    rw [afterAll_cons]
    refine (after_pbuf_read i s hj).imp fun t ht => ?_
    rw [lastPbufWrite, ← ht]
    exact ih t

end Sys2Proof.Machine
end

section
/-! CERTIFICATES. The memory family: HOST_RD, HOST_WR, the reserved and read-only addresses, and PBUF's contents. -/

namespace Sys2Proof.Proofs

open Sys2Proof.Machine Sys2Proof.Certificates

/-- Settles O13: the address decode is the spec's table at each of the 1024 addresses. -/
theorem hostReadAnswers : Obligations.HostReadAnswers := by
  intro a s
  rw [exec_hostRd, ← Device.specMemRead_eq_memRead]; rfl

/-- Settles O14: a write to CMD is the command row of its data; elsewhere the address decode is the spec's table. -/
theorem hostWriteEffect : Obligations.HostWriteEffect := by
  intro a v s
  split_ifs with hcmd
  · obtain rfl : a = cmdAddr := BitVec.eq_of_toNat_eq hcmd
    exact exec_hostWr_cmd v s
  · rw [exec_hostWr, Device.memWrite_eq_specMemWrite _ hcmd]; rfl

/-- Settles O15: a reserved address is in no row of R37, and no reserved or read-only place is host-writable. -/
theorem reservedAndReadOnlyAddresses : Obligations.ReservedAndReadOnlyAddresses := by
  intro a v s
  refine ⟨fun ha => ?_, fun ha => ?_⟩
  · rw [exec_hostRd, Device.memRead_reserved _ ha]; rfl
  · have hplace : HostWritable (placeOf a) = false := by apply placeOf_notWritable <;> omega
    rw [exec_hostWr, Device.memWrite_notWritable _ hplace, State.withDev_self]

/-- Settles O21: by induction on the list of transactions, each of which writes PBUF[j] or leaves it. -/
theorem pbufHoldsTheLastWrite : Obligations.PbufHoldsTheLastWrite :=
  fun is _ _ hj => ⟨fun s => afterAll_pbuf_read is s hj, afterAll_pbuf_read is State.reset hj⟩

end Sys2Proof.Proofs
end

section
/-! SUPPORT. What the decoder makes of a packed word, and what the decoded transaction does. -/

namespace Sys2Proof.Machine

/-- Every number of 19 bits is a word of the table and decodes (R48). -/
theorem decodeTableWord_toNat (w : BusWord) : decodeTableWord 24 w.toNat = some (decodeWord w) := by
  have hlt := w.isLt
  have hmod : w.toNat % 2 ^ 24 = w.toNat := Nat.mod_eq_of_lt (by omega)
  rw [decodeTableWord, busWordOfNat, hmod, if_pos hlt, BitVec.ofNat_toNat, BitVec.setWidth_eq, Option.map_some]

theorem decodeTableWord_of_eq_packWord {n : Nat} {writes : Bool} {a : Addr} {v : Byte}
    (h : n = (packWord writes a v).toNat) : decodeTableWord 24 n = some (decodeWord (packWord writes a v)) :=
  h ▸ decodeTableWord_toNat _

/-- The word of a read is the read, whatever its DATA (R48). -/
theorem decodeWord_readWord (a : Addr) (v : Byte) : decodeWord (packWord false a v) = .hostRd a := by
  simp [decodeWord]

/-- The word of a write does what HOST_WR does, at CMD too, where it decodes to the command row (R49). -/
theorem exec_decodeWord_writeWord (a : Addr) (v : Byte) :
    exec (decodeWord (packWord true a v)) = exec (.hostWr a v) := by
  by_cases ha : a = cmdAddr
  · rw [ha, decodeWord_cmdWrite]
    exact (funext (exec_hostWr_cmd v)).symm
  · simp [decodeWord, ha]

theorem decodeCommand_reserved {c : Byte} (h : ReservedCode c) : decodeCommand c = .illegalCmd c := by
  rw [decodeCommand, (commandOf_eq_illegal_iff c).2 h]

end Sys2Proof.Machine
end

section
/-! CERTIFICATES. The encoding family: the bus word's fields and effect, and the opcode map of the command byte. -/

namespace Sys2Proof.Proofs

open Sys2Proof.Machine Sys2Proof.Certificates

/-- Settles O3: the number is a packed word; W = 0 decodes to the read, W = 1 does what HOST_WR does. -/
theorem busWordFieldsAndEffect : Obligations.BusWordFieldsAndEffect := by
  intro W a v s hW word
  obtain rfl | rfl : W = 0 ∨ W = 1 := by omega
  · have hword : word = (packWord false a v).toNat := (packWord_toNat false a v).symm
    refine ⟨.hostRd a, ?_, hostReadAnswers a s, fun _ => ?_⟩
    · rw [decodeTableWord_of_eq_packWord hword, decodeWord_readWord]
    · simp [encodeWord, packWord_toNat]
  · have hword : word = (packWord true a v).toNat := (packWord_toNat true a v).symm
    refine ⟨_, decodeTableWord_of_eq_packWord hword, ?_, fun h => absurd h one_ne_zero⟩
    rw [exec_decodeWord_writeWord, hostWriteEffect a v s, if_neg one_ne_zero]

/-- Settles O4: the word is a write to CMD of `c`; the five codes of R50 one by one, and every other is reserved. -/
theorem commandByteMap : Obligations.CommandByteMap := by
  intro c
  have hword : BitVec.ofNat 19 (0x50000 + c.toNat) = packWord true cmdAddr c := by
    apply BitVec.eq_of_toNat_eq
    have hc := c.isLt
    rw [packWord_toNat, BitVec.toNat_ofNat, Nat.mod_eq_of_lt (by omega)]
    rfl
  rw [hword, decodeWord_cmdWrite]
  split
  case h_1 h => exact congrArg decodeCommand (BitVec.eq_of_toNat_eq (y := 1#8) h)
  case h_2 h => exact congrArg decodeCommand (BitVec.eq_of_toNat_eq (y := 2#8) h)
  case h_3 h => exact congrArg decodeCommand (BitVec.eq_of_toNat_eq (y := 3#8) h)
  case h_4 h => exact congrArg decodeCommand (BitVec.eq_of_toNat_eq (y := 4#8) h)
  case h_5 h => exact congrArg decodeCommand (BitVec.eq_of_toNat_eq (y := 5#8) h)
  case h_6 h1 h2 h3 h4 h5 =>
    rw [imp_false] at h1 h2 h3 h4 h5
    exact decodeCommand_reserved (by omega)

end Sys2Proof.Proofs
end

section
/-! SUPPORT. Two states of the PFCV with the same latched frame, and what FRAME then shows in both. -/

namespace Sys2Proof.Machine

theorem After.and {i : Instr} {s : State} {P Q : State → Prop} (hP : After i s P) (hQ : After i s Q) :
    After i s fun t => P t ∧ Q t := by
  obtain ⟨t, ht, hP⟩ := hP
  exact ⟨t, ht, hP, (after_iff ht).1 hQ⟩

theorem AfterAll.imp {is : List Instr} {s : State} {P Q : State → Prop} (h : ∀ t, P t → Q t) (hP : AfterAll is s P) :
    AfterAll is s Q := by
  obtain ⟨t, ht, hP⟩ := hP
  exact ⟨t, ht, h t hP⟩

/-- The two agree on every item but PBUF that FRAME is a view of (R27). -/
structure Device.SameLatch (d e : Device) : Prop where
  txValid : d.status.txValid = e.status.txValid
  txHlen : d.txHlen = e.txHlen
  txLen : d.txLen = e.txLen
  txhdr : d.txhdr = e.txhdr

theorem Device.SameLatch.refl (d : Device) : d.SameLatch d := ⟨rfl, rfl, rfl, rfl⟩

theorem Device.SameLatch.trans {d e f : Device} (h : d.SameLatch e) (h' : e.SameLatch f) : d.SameLatch f :=
  ⟨h.txValid.trans h'.txValid, h.txHlen.trans h'.txHlen, h.txLen.trans h'.txLen, h.txhdr.trans h'.txhdr⟩

/-- FRAME is a view of the latched header and of the payload, and of nothing else (R27). -/
theorem Device.SameLatch.frame_eq {d e : Device} (h : d.SameLatch e)
    (hpay : ∀ j < e.txLen.toNat, d.pbuf.read j = e.pbuf.read j) (m : Nat) : d.frame m = e.frame m := by
  refine List.map_congr_left fun i _ => ?_
  simp only [frameByte, h.txValid, h.txHlen, h.txLen, h.txhdr]
  split_ifs with hhidden hheader hshown
  · rfl
  · rfl
  · exact hpay _ (by omega)
  · rfl

theorem Device.frameByte_past_end (d : Device) {k : Nat} (hk : d.txHlen.toNat + d.txLen.toNat ≤ k) :
    d.frameByte k = 0x00#8 := by
  simp only [frameByte]
  rw [if_neg (show ¬k < d.txHlen.toNat by omega), if_neg (Nat.not_lt.2 hk), ite_self]

theorem encodeCommand_lengths {d : Device} (h : d.cnt.toNat ≤ 255) :
    (encodeCommand d).txHlen = 4#8 ∧ (encodeCommand d).txLen.toNat = d.cnt.toNat := by
  obtain ⟨-, e⟩ := (encodeCommand_cases d).resolve_left fun hlong => h.not_gt hlong.1
  rw [e]
  exact ⟨rfl, by rw [BitVec.toNat_ofNat]; omega⟩

end Sys2Proof.Machine
end

section
/-! CERTIFICATES. The framer family: ENCODE, and the frame it leaves to be read. -/

namespace Sys2Proof.Proofs

open Sys2Proof.Machine Sys2Proof.Certificates

/-- R20, R24 to R26: what is no build and no CLEAR keeps the latched frame, and whether it is shown. -/
theorem latch_kept {i : Instr} (hi : i.WellFormed ∧ i ≠ .encode ∧ i ≠ .frameCk ∧ i ≠ .clear) (s : State) :
    After i s fun t => t.dev.SameLatch s.dev := by
  obtain ⟨hwf, henc, hfck, hclr⟩ := hi
  obtain ⟨-, -, -, hvalid, -⟩ := txValidWriters s
  have hnoBuild : i = .encode ∨ i = .frameCk → 255 < s.dev.cnt.toNat := fun h => (h.elim henc hfck).elim
  exact ((hvalid i hwf henc hfck hclr).and (transmit_registers_kept hwf hnoBuild hclr)).imp
    fun _ ⟨hv, hhlen, hlen, hhdr⟩ => ⟨hv, hhlen, hlen, hhdr⟩

theorem afterAll_latch_kept {is : List Instr}
    (his : ∀ i ∈ is, i.WellFormed ∧ i ≠ .encode ∧ i ≠ .frameCk ∧ i ≠ .clear) (s : State) :
    AfterAll is s fun t => t.dev.SameLatch s.dev := by
  induction is generalizing s with
  | nil => exact afterAll_nil.2 (.refl _)
  | cons i is ih =>
    obtain ⟨hi, his⟩ := List.forall_mem_cons.1 his
    rw [afterAll_cons]
    exact (latch_kept hi s).imp fun t ht => (ih his t).imp fun _ hu => hu.trans ht

/-- R61, after success: as long as the latch is ENCODE's, FRAME shows the frame built for as long as the payload is
unchanged, and 0x00 past its end whatever PBUF holds. -/
theorem frame_of_encode_latch {d e : Device} (hcnt : d.cnt.toNat ≤ 255) (h : e.SameLatch (encodeCommand d)) :
    ((∀ j < d.cnt.toNat, e.pbuf.read j = d.pbuf.read j) →
      e.frame (4 + d.cnt.toNat) = frameNoCk d.txType (d.pbuf.payload d.cnt.toNat)) ∧
    ∀ k, 4 + d.cnt.toNat ≤ k → e.frameByte k = 0x00#8 := by
  obtain ⟨hhlen, hlen⟩ := encodeCommand_lengths hcnt
  obtain ⟨hpbuf, -⟩ := encodeCommand_frame d
  refine ⟨fun hpay => ?_, fun k hk => e.frameByte_past_end ?_⟩
  · calc e.frame (4 + d.cnt.toNat)
        = (encodeCommand d).frame (4 + d.cnt.toNat) := h.frame_eq (by rwa [hlen, hpbuf]) _
      _ = frameNoCk d.txType (d.pbuf.payload d.cnt.toNat) := by rw [← encodeCommand_frameNoCk hcnt, hlen]
  · rwa [h.txHlen, h.txLen, hhlen, hlen]

/-- Settles O28: by the two cases of ENCODE; by induction on the later transactions its latch stays, and FRAME is a view
of the latch and the payload. -/
theorem encodeEffect : Obligations.EncodeEffect := by
  refine ⟨⟨rfl, decodeWord_cmdWrite 0x01#8⟩, fun s => ⟨fun hlong => ?_, fun hcnt => ⟨?_, ?_⟩, fun is hcnt his => ?_⟩⟩
  · obtain ⟨-, e⟩ := (encodeCommand_cases s.dev).resolve_right fun h => h.1.not_gt hlong
    rw [exec_encode, e]; rfl
  · obtain ⟨-, e⟩ := (encodeCommand_cases s.dev).resolve_left fun h => hcnt.not_gt h.1
    rw [exec_encode, e]; rfl
  · rw [after_encode]
    obtain ⟨hframe, hpast⟩ := frame_of_encode_latch hcnt (.refl _)
    obtain ⟨hpbuf, -⟩ := encodeCommand_frame s.dev
    exact ⟨hframe fun j _ => by rw [hpbuf], hpast⟩
  · rw [afterAll_cons, after_encode]
    exact (afterAll_latch_kept his _).imp fun t ht => frame_of_encode_latch hcnt ht

end Sys2Proof.Proofs
end

section
/-! SUPPORT. DECODE on a header that begins with the marker and on one that does not. -/

namespace Sys2Proof.Machine

open Sys2Proof.Certificates

theorem le16_eq_ofNat (lo hi : Byte) : le16 lo hi = BitVec.ofNat 16 (hi.toNat * 256 + lo.toNat) := by
  rw [← le16_toNat, BitVec.ofNat_toNat, BitVec.setWidth_eq]

section Marker
variable {d : Device}

/-- R64, success. -/
theorem decodeHeaderCommand_of_syncAt (h : SyncAt d) : decodeHeaderCommand d = { d with
    rxType := d.rxhdr.b2
    rxLen := d.rxhdr.b3
    rxCk := BitVec.ofNat 16 (d.rxhdr.b5.toNat * 256 + d.rxhdr.b4.toNat)
    status := { d.status with payloadOk := false, hdrValid := true, err := 0#4 } } := by
  obtain ⟨-, e⟩ := (decodeHeaderCommand_cases d).resolve_right fun hno => hno.1 h
  rw [e, le16_eq_ofNat]

/-- R64, INVALID_SYNC. -/
theorem decodeHeaderCommand_of_not_syncAt (h : ¬SyncAt d) : decodeHeaderCommand d = { d with
    status := Status.failed { d.status with payloadOk := false, hdrValid := false } 1#4 } :=
  ((decodeHeaderCommand_cases d).resolve_left fun hyes => h hyes.1).2

/-- VERIFY without a valid header ends with SEQUENCE_ERROR (R70). -/
theorem verifyCommand_of_not_hdrValid (h : d.status.hdrValid = false) : verifyCommand d = { d with
    status := Status.failed { d.status with payloadOk := false } 5#4 } :=
  ((verifyCommand_cases d).resolve_right (by simp [h])).2

end Marker

/-- R63: DECODE's ERR tells whether the marker was there, and is one of two codes. -/
theorem decodeHeaderCommand_err (d : Device) :
    (decodeHeaderCommand d).status.err = if SyncAt d then 0#4 else 1#4 := by
  split_ifs with h
  · rw [decodeHeaderCommand_of_syncAt h]
  · rw [decodeHeaderCommand_of_not_syncAt h]

end Sys2Proof.Machine
end

section
/-! CERTIFICATES. The header decoder family: DECODE's effect, and the marker it asks for. -/

namespace Sys2Proof.Proofs

open Sys2Proof.Machine Sys2Proof.Certificates

/-- Settles O33: by the two cases of DECODE; a failing one leaves HDR_VALID = 0, on which VERIFY refuses. -/
theorem decodeEffect : Obligations.DecodeEffect := by
  refine ⟨⟨rfl, decodeWord_cmdWrite 0x02#8⟩, fun s => ⟨fun hsync => ?_, fun hno => ?_, fun hno => ?_⟩⟩
  · rw [exec_decode, decodeHeaderCommand_of_syncAt hsync]; rfl
  · rw [exec_decode, decodeHeaderCommand_of_not_syncAt hno]; rfl
  · rw [afterAll_cons, after_decode, decodeHeaderCommand_of_not_syncAt hno, afterAll_cons, after_verify,
      State.withDev_dev, verifyCommand_of_not_hdrValid rfl, afterAll_nil]
    exact ⟨rfl, rfl, rfl, rfl⟩

/-- Settles O34: ERR is OK with the marker and INVALID_SYNC without it, and each wrong marker differs from it in its
first byte. -/
theorem syncMarkerIsExact : Obligations.SyncMarkerIsExact := by
  intro s
  have hreject (hno : s.dev.rxhdr.b0 ≠ 0xAF#8) : After .decode s fun t => t.dev.status.err = 1#4 := by
    rw [after_decode, State.withDev_dev, decodeHeaderCommand_err, if_neg fun hsync => hno hsync.1]
  refine ⟨?_, fun ⟨hrequest, _⟩ => hreject ?_, fun ⟨hswapped, _⟩ => hreject ?_⟩
  · rw [after_decode, State.withDev_dev, decodeHeaderCommand_err]
    obtain ⟨-, -, -, -, -, -, hrxhdr, -⟩ := decodeHeaderCommand_frame s.dev
    by_cases h : SyncAt s.dev
    · rw [if_pos h]
      exact ⟨iff_of_true rfl h, iff_of_false (by decide) (not_not_intro h), hrxhdr⟩
    · rw [if_neg h]
      exact ⟨iff_of_false (by decide) h, iff_of_true rfl h, hrxhdr⟩
  · rw [hrequest]; decide
  · rw [hswapped]; decide

end Sys2Proof.Proofs
end

section
/-! SUPPORT. The checksum as the sum of the payload bytes, VERIFY's outcomes one by one, and the frame of FRAME_CK. -/

namespace Sys2Proof.Machine

open Sys2Proof.Certificates

/-! ### The sum -/

section Sum
variable (m : Memory)

theorem Memory.byteSum_eq_sum_map (n : Nat) : m.byteSum n = ((List.range n).map fun i => (m.read i).toNat).sum := by
  induction n with
  | zero => rfl
  | succ n ih => rw [byteSum, ih, List.sum_range_succ]

theorem Memory.byteSum_eq_sum_range (n : Nat) : m.byteSum n = ∑ i ∈ Finset.range n, (m.read i).toNat := by
  rw [byteSum_eq_sum_map, ← List.toFinset_range, List.sum_toFinset _ List.nodup_range]

theorem Memory.sum16_toNat (n : Nat) : (m.sum16 n).toNat = m.byteSum n % 2 ^ 16 := BitVec.toNat_ofNat ..

end Sum

/-! ### VERIFY with a valid header -/

section Outcomes
variable {d : Device} (hhdr : d.status.hdrValid = true)
include hhdr

/-- R70, MALFORMED_LENGTH. -/
theorem verifyCommand_of_cnt_ne (hcnt : d.cnt.toNat ≠ d.rxLen.toNat) : verifyCommand d = { d with
    status := Status.failed { d.status with payloadOk := false } 3#4 } := by
  obtain ⟨h, -⟩ | ⟨-, -, e⟩ | ⟨-, h, -⟩ | ⟨-, h, -⟩ := verifyCommand_cases d
  · exact absurd (hhdr.symm.trans h) (by decide)
  · exact e
  · exact absurd h hcnt
  · exact absurd h hcnt

variable (hcnt : d.cnt.toNat = d.rxLen.toNat)
include hcnt

/-- R70, success. -/
theorem verifyCommand_of_sum16_eq (hsum : d.pbuf.sum16 d.rxLen.toNat = d.rxCk) : verifyCommand d = { d with
    ckCalc := d.pbuf.sum16 d.rxLen.toNat
    status := { d.status with payloadOk := true, err := 0#4 } } := by
  obtain ⟨h, -⟩ | ⟨-, h, -⟩ | ⟨-, -, -, e⟩ | ⟨-, -, h, -⟩ := verifyCommand_cases d
  · exact absurd (hhdr.symm.trans h) (by decide)
  · exact absurd hcnt h
  · exact e
  · exact absurd hsum h

/-- R70, CHECKSUM_MISMATCH. -/
theorem verifyCommand_of_sum16_ne (hsum : d.pbuf.sum16 d.rxLen.toNat ≠ d.rxCk) : verifyCommand d = { d with
    ckCalc := d.pbuf.sum16 d.rxLen.toNat
    status := Status.failed { d.status with payloadOk := false } 2#4 } := by
  obtain ⟨h, -⟩ | ⟨-, h, -⟩ | ⟨-, -, h, -⟩ | ⟨-, -, -, e⟩ := verifyCommand_cases d
  · exact absurd (hhdr.symm.trans h) (by decide)
  · exact absurd hcnt h
  · exact absurd h hsum
  · exact e

end Outcomes

/-- PBUF from RX_LEN on is never read (R70). -/
theorem verifyCommand_withPbuf {d : Device} {m : Memory} (h : ∀ j < d.rxLen.toNat, m.read j = d.pbuf.read j) :
    verifyCommand { d with pbuf := m } = { verifyCommand d with pbuf := m } :=
  d.runCommand_withPbuf m .verify (fun _ => Memory.sum16_congr h) nofun

/-! ### FRAME_CK -/

section Build
variable {d : Device}

/-- R72, PAYLOAD_TOO_LONG. -/
theorem frameCkCommand_of_cnt_gt (h : 255 < d.cnt.toNat) : frameCkCommand d = { d with
    status := Status.failed { d.status with txValid := false } 4#4 } :=
  ((frameCkCommand_cases d).resolve_right fun hbuilt => hbuilt.1.not_gt h).2

variable (hcnt : d.cnt.toNat ≤ 255)
include hcnt

/-- R72, success. -/
theorem frameCkCommand_of_cnt_le : frameCkCommand d = { d with
    txhdr := ⟨0xAF#8, 0xC1#8, d.txType, BitVec.ofNat 8 d.cnt.toNat, lo8 (d.pbuf.sum16 d.cnt.toNat),
      hi8 (d.pbuf.sum16 d.cnt.toNat)⟩
    txHlen := 6#8
    txLen := BitVec.ofNat 8 d.cnt.toNat
    ckCalc := d.pbuf.sum16 d.cnt.toNat
    status := { d.status with txValid := true, err := 0#4 } } :=
  ((frameCkCommand_cases d).resolve_left fun hlong => hcnt.not_gt hlong.1).2

theorem frameCkCommand_lengths :
    (frameCkCommand d).txHlen = 6#8 ∧ (frameCkCommand d).txLen.toNat = d.cnt.toNat := by
  rw [frameCkCommand_of_cnt_le hcnt]
  exact ⟨rfl, by rw [BitVec.toNat_ofNat]; omega⟩

/-- A successful FRAME_CK makes the checksum-mode frame of the payload (R27, R56, R72). -/
theorem frameCkCommand_frameCk : (frameCkCommand d).frame (6 + d.cnt.toNat) =
    frameCk d.txType (d.pbuf.sum16 d.cnt.toNat) (d.pbuf.payload d.cnt.toNat) := by
  obtain ⟨hhlen, hlen⟩ := frameCkCommand_lengths hcnt
  obtain ⟨hpbuf, -⟩ := frameCkCommand_frame d
  have hvalid : (frameCkCommand d).status.txValid = true := by rw [frameCkCommand_of_cnt_le hcnt]
  have hheader : (List.range 6).map (frameCkCommand d).txhdr.get = [0xAF#8, 0xC1#8, d.txType,
      BitVec.ofNat 8 d.cnt.toNat, lo8 (d.pbuf.sum16 d.cnt.toNat), hi8 (d.pbuf.sum16 d.cnt.toNat)] := by
    rw [frameCkCommand_of_cnt_le hcnt]; rfl
  have hframe := (frameCkCommand d).frame_eq_header_append_payload hvalid
  rw [hlen, hhlen, hpbuf] at hframe
  refine hframe.trans ((congrArg (· ++ _) hheader).trans ?_)
  rw [frameCk, Memory.payload, List.length_map, List.length_range]

end Build

end Sys2Proof.Machine
end

section
/-! CERTIFICATES. The checksum family: FRAME_CK, the sum, and VERIFY. -/

namespace Sys2Proof.Proofs

open Sys2Proof.Machine Sys2Proof.Certificates

/-- Settles O37: by the two cases of FRAME_CK; a later write to PBUF is no write to CMD, so it keeps TXHDR. -/
theorem frameCkEffect : Obligations.FrameCkEffect := by
  refine ⟨⟨rfl, decodeWord_cmdWrite 0x04#8⟩, fun s => ⟨fun hlong => ?_, fun hcnt => ⟨?_, ?_⟩⟩⟩
  · rw [exec_frameCk, frameCkCommand_of_cnt_gt hlong]; rfl
  · rw [exec_frameCk, frameCkCommand_of_cnt_le hcnt, lo8_eq_ofNat_mod, hi8_eq_ofNat_div]; rfl
  · rw [after_frameCk]
    refine ⟨frameCkCommand_frameCk hcnt, fun a v ha => ?_⟩
    rw [after_hostWr, State.withDev_dev, Device.memWrite_pbuf _ ha]

/-- Settles O39: the sum is over the list of indices, and a permutation of a list has the same sum. -/
theorem sum16IsThePayloadSum : Obligations.Sum16IsThePayloadSum := by
  intro m n _
  refine ⟨?_, fun l hl => ?_, rfl⟩
  · rw [m.sum16_toNat, m.byteSum_eq_sum_range]
  · rw [m.sum16_toNat, m.byteSum_eq_sum_map, (hl.map _).sum_eq]

/-- Settles O36: by the four outcomes of VERIFY, which sees PBUF only through the sum of the first RX_LEN bytes. -/
theorem verifyEffect : Obligations.VerifyEffect := by
  refine ⟨⟨rfl, decodeWord_cmdWrite 0x03#8⟩, fun s => ⟨fun hno => ?_, fun hhdr hcnt => ?_,
    fun hhdr hcnt hsum => ?_, fun hhdr hcnt hsum => ?_, fun m hm => ?_⟩⟩
  · rw [exec_verify, verifyCommand_of_not_hdrValid hno]; rfl
  · rw [exec_verify, verifyCommand_of_cnt_ne hhdr hcnt]; rfl
  · rw [exec_verify, verifyCommand_of_sum16_eq hhdr hcnt hsum]; rfl
  · rw [exec_verify, verifyCommand_of_sum16_ne hhdr hcnt hsum]; rfl
  · rw [after_verify, exec_verify, verifyCommand_withPbuf hm]; rfl

end Sys2Proof.Proofs
end

section
/-! SUPPORT. How a command ends: what it leaves unchanged when it fails, and what ERR says of DECODE's header. -/

namespace Sys2Proof.Machine

/-- A command that fails writes nothing outside STATUS and CK_CALC, and CK_CALC only when VERIFY finds a wrong checksum
(R75). -/
theorem failed_command_frame {i : Instr} (hi : IsCommand i) (s : State) : After i s fun t =>
    t.dev.status.err ≠ 0#4 → t.dev = { s.dev with status := t.dev.status, ckCalc := t.dev.ckCalc } ∧
      (t.dev.status.err ≠ 2#4 → t.dev.ckCalc = s.dev.ckCalc) := by
  cases i with
  | hostRd a => exact hi.elim
  | hostWr a v => exact hi.elim
  | encode => obtain ⟨-, e⟩ | ⟨-, e⟩ := encodeCommand_cases s.dev <;> simp [e]
  | decode => obtain ⟨-, e⟩ | ⟨-, e⟩ := decodeHeaderCommand_cases s.dev <;> simp [e]
  | verify =>
    obtain ⟨-, e⟩ | ⟨-, -, e⟩ | ⟨-, -, -, e⟩ | ⟨-, -, -, e⟩ := verifyCommand_cases s.dev <;> simp [e]
  | frameCk => obtain ⟨-, e⟩ | ⟨-, e⟩ := frameCkCommand_cases s.dev <;> simp [e]
  | clear => simp [clearCommand_eq]
  | illegalCmd c => simp [illegalCommand_eq]

/-- DECODE leaves HDR_VALID = 1 exactly when it succeeds (R18, R64). -/
theorem after_decode_hdrValid_iff_ok (s : State) : After .decode s fun t =>
    t.dev.status.hdrValid = true ↔ t.dev.status.err = 0#4 := by
  obtain ⟨-, e⟩ | ⟨-, e⟩ := decodeHeaderCommand_cases s.dev <;> simp [e]

end Sys2Proof.Machine
end

section
/-! CERTIFICATES. The control family: how commands end, CLEAR, and the reserved codes. -/

namespace Sys2Proof.Proofs

open Sys2Proof.Machine Sys2Proof.Certificates

/-- Settles O47: a failing command's frame, and the writers of ANY_ERR and of each validity flag. -/
theorem commandEpilogues : Obligations.CommandEpilogues := by
  intro i s hi
  obtain ⟨hsticky, hclearOk, -⟩ := anyErrIsSticky s
  obtain ⟨t, ht, hframe⟩ := failed_command_frame hi s
  have hany (hclr : i ≠ .clear) := (after_iff ht).1 (hsticky i hi hclr)
  refine ⟨t, ht, fun hok hclr => by simpa [hok] using hany hclr, fun herr => ⟨?_, ?_, ?_, ?_, ?_, hframe herr⟩⟩
  · have hclr : i ≠ .clear := by
      rintro rfl
      exact herr ((after_iff ht).1 hclearOk).2
    simpa [herr] using hany hclr
  · rintro rfl
    have hflag := (after_iff ht).1 (after_decode_hdrValid_iff_ok s)
    exact Bool.eq_false_iff.2 (mt hflag.1 herr)
  · rintro rfl
    have hflag := (after_iff ht).1 (payloadOkWriters s).1
    exact Bool.eq_false_iff.2 (mt hflag.1 herr)
  · intro hbuild
    have hflag := ((after_iff ht).1 ((txValidWriters s).1 i hbuild)).1
    exact Bool.eq_false_iff.2 (mt hflag.1 herr)
  · rintro ⟨c, rfl⟩
    obtain rfl := Host.Outcome.next.inj (ht.symm.trans (exec_illegalCmd c s))
    exact ⟨rfl, rfl, rfl⟩

/-- Without a valid header only a successful DECODE makes one valid (R18, R76). -/
theorem hdrValid_only_by_successful_decode {i : Instr} (hwf : i.WellFormed) {s : State}
    (hno : s.dev.status.hdrValid = false) : After i s fun t =>
      t.dev.status.hdrValid = true → i = .decode ∧ t.dev.status.err = 0#4 := by
  obtain ⟨-, hclear, -, hkept, -⟩ := hdrValidWriters s
  by_cases hdec : i = .decode
  · subst hdec
    exact (after_decode_hdrValid_iff_ok s).imp fun t hok hvalid => ⟨rfl, hok.1 hvalid⟩
  · have hinvalid : After i s fun t => t.dev.status.hdrValid = false := by
      by_cases hclr : i = .clear
      · exact hclr ▸ hclear
      · exact (hkept i hwf hdec hclr).imp fun t ht => ht.trans hno
    exact hinvalid.imp fun t ht hvalid => absurd (ht.symm.trans hvalid) Bool.false_ne_true

/-- Settles O45: CLEAR hides FRAME and the header, on which VERIFY refuses until a DECODE succeeds. -/
theorem clearEffect : Obligations.ClearEffect := by
  refine ⟨⟨rfl, decodeWord_cmdWrite 0x05#8⟩, fun s => ⟨?_, rfl, ?_, fun hno => ⟨?_, fun i hwf => ?_⟩⟩⟩
  · rw [exec_clear, clearCommand_eq]; rfl
  · exact after_clear.2 ⟨Device.frameByte_hidden _ rfl, rfl⟩
  · rw [after_verify, State.withDev_dev, verifyCommand_of_not_hdrValid hno]
  · exact hdrValid_only_by_successful_decode hwf hno

/-- Settles O46: the write to CMD is the command row of its data, which for a reserved code is ILLEGAL_CMD. -/
theorem illegalCommandEffect : Obligations.IllegalCommandEffect := by
  intro c s hc
  have hexec : exec (.illegalCmd c) s =
      .next { s with dev := { s.dev with status := Status.failed s.dev.status 6#4 } } := by
    rw [exec_illegalCmd, illegalCommand_eq]; rfl
  have hrow := decodeCommand_reserved hc
  exact ⟨hrow, hexec, by rw [← hexec, ← hrow]; exact exec_hostWr_cmd c s⟩

end Sys2Proof.Proofs
end

section
/-! SUPPORT. The error code each command ends with, and that every transaction completes. -/

namespace Sys2Proof.Machine

/-- R79, R80: no transaction fails or stops. -/
theorem exec_completes (i : Instr) (s : State) : ∃ t, exec i s = .next t := by
  cases i <;> exact ⟨_, rfl⟩

section ErrorCodes
variable (d : Device)

theorem encodeCommand_err : (encodeCommand d).status.err = if 255 < d.cnt.toNat then 4#4 else 0#4 := by
  obtain ⟨h, e⟩ | ⟨h, e⟩ := encodeCommand_cases d
  · rw [e, if_pos h]
  · rw [e, if_neg h.not_gt]

theorem frameCkCommand_err : (frameCkCommand d).status.err = if 255 < d.cnt.toNat then 4#4 else 0#4 := by
  obtain ⟨h, e⟩ | ⟨h, e⟩ := frameCkCommand_cases d
  · rw [e, if_pos h]
  · rw [e, if_neg h.not_gt]

end ErrorCodes

end Sys2Proof.Machine
end

section
/-! CERTIFICATES. The exceptions family: what raises each error code, and which one is reported. -/

namespace Sys2Proof.Proofs

open Sys2Proof.Machine Sys2Proof.Certificates

/-- Settles O48: by the outcomes of each command, every one of which ends with one code. -/
theorem errorCauses : Obligations.ErrorCauses := by
  refine ⟨fun i s hi => ?_, exec_completes⟩
  cases i with
  | hostRd a => exact hi.elim
  | hostWr a v => exact hi.elim
  | encode => obtain ⟨h, e⟩ | ⟨h, e⟩ := encodeCommand_cases s.dev <;> simp [e, h]
  | decode => obtain ⟨h, e⟩ | ⟨h, e⟩ := decodeHeaderCommand_cases s.dev <;> simp [e, h]
  | verify =>
    obtain ⟨hhdr, e⟩ | ⟨hhdr, hcnt, e⟩ | ⟨hhdr, hcnt, hsum, e⟩ | ⟨hhdr, hcnt, hsum, e⟩ := verifyCommand_cases s.dev
    · simp [e, hhdr]
    · simp [e, hhdr, hcnt]
    · simp [e, hhdr, hcnt, hsum]
    · simp [e, hhdr, hcnt, hsum]
  | frameCk => obtain ⟨h, e⟩ | ⟨h, e⟩ := frameCkCommand_cases s.dev <;> simp [e, h]
  | clear => simp [clearCommand_eq]
  | illegalCmd c => simp [illegalCommand_eq]

/-- Settles O49: the conditions of VERIFY come one by one, and each other command has one code to fail with. -/
theorem errorPriority : Obligations.ErrorPriority := by
  intro s
  refine ⟨fun hno => ?_, fun hhdr hcnt => ?_, fun hhdr hcnt hsum => ?_, ?_, ?_, ?_, fun c => ?_⟩
  · rw [after_verify, verifyCommand_of_not_hdrValid hno]
    exact ⟨rfl, rfl⟩
  · rw [after_verify, verifyCommand_of_cnt_ne hhdr hcnt]
    exact ⟨rfl, rfl⟩
  · rw [after_verify, verifyCommand_of_sum16_ne hhdr hcnt hsum]
    rfl
  · rw [after_encode, State.withDev_dev, encodeCommand_err]
    exact (ite_eq_or_eq _ _ _).symm
  · rw [after_frameCk, State.withDev_dev, frameCkCommand_err]
    exact (ite_eq_or_eq _ _ _).symm
  · rw [after_decode, State.withDev_dev, decodeHeaderCommand_err]
    exact ite_eq_or_eq _ _ _
  · exact (after_illegalCmd c).2 rfl

end Sys2Proof.Proofs
end

section
/-! SUPPORT. What a host reads at CMD and at FRAME while no frame is valid. -/

namespace Sys2Proof.Machine

/-- Without a valid frame CMD and every FRAME byte read 0x00 (R15, R20, R27). -/
theorem Device.memRead_cmd_and_frame_hidden {d : Device} (h : d.status.txValid = false) :
    d.memRead 0x100#10 = 0#8 ∧ ∀ a : Addr, 0x200 ≤ a.toNat → d.memRead a = 0#8 :=
  ⟨d.memRead_cmd, fun _ ha => (d.memRead_frame ha).trans (d.frameByte_hidden h _)⟩

end Sys2Proof.Machine
end

section
/-! CERTIFICATES. The reset and hazards family: the value of every item of state at reset and after CLEAR. -/

namespace Sys2Proof.Proofs

open Sys2Proof.Machine Sys2Proof.Certificates

/-- Settles O11: no host write is listed in PBUF at reset, CLEAR keeps the host's inputs, and TX_VALID is 0 after both,
which hides FRAME. -/
theorem resetAndClearValues : Obligations.ResetAndClearValues := by
  refine ⟨⟨Memory.read_fresh 0, rfl, rfl, rfl, rfl, rfl, rfl, rfl, rfl, rfl, rfl, rfl,
    Device.memRead_cmd_and_frame_hidden rfl⟩, fun s => ?_⟩
  have hinputs := s.dev.runCommand_inputs .clear
  rw [after_clear, State.withDev_dev]
  refine ⟨hinputs, ?_, Device.memRead_cmd_and_frame_hidden rfl⟩
  rw [clearCommand_eq]
  exact ⟨rfl, rfl, rfl, rfl, rfl, rfl, rfl, rfl⟩

end Sys2Proof.Proofs
end

section
/-! SUPPORT. Which row a bus word decodes to, and the word that row encodes to. -/

namespace Sys2Proof.Machine

/-- The word of a write to any address but CMD is HOST_WR (R48). -/
theorem decodeWord_writeWord {a : Addr} (ha : a ≠ cmdAddr) (v : Byte) :
    decodeWord (packWord true a v) = .hostWr a v := by
  simp [decodeWord, ha]

/-- The command row of a CMD write keeps its code (R50). -/
theorem encodeWord_decodeCommand (c : Byte) : encodeWord (decodeCommand c) = packWord true cmdAddr c := by
  simp only [decodeCommand, commandOf]
  split_ifs <;> simp_all [encodeWord]

theorem decodeWord_read {w : BusWord} (hw : wordWrites w = false) : decodeWord w = .hostRd (wordAddr w) := by
  rw [decodeWord, if_neg (Bool.eq_false_iff.1 hw)]

/-- The three kinds of bus word: a read, a CMD write, any other write (R48, R49). -/
theorem decodeWord_cases (w : BusWord) :
    (wordWrites w = false ∧ decodeWord w = .hostRd (wordAddr w)) ∨
    (wordWrites w = true ∧ wordAddr w = cmdAddr ∧ decodeWord w = decodeCommand (wordData w)) ∨
    (wordWrites w = true ∧ wordAddr w ≠ cmdAddr ∧ decodeWord w = .hostWr (wordAddr w) (wordData w)) := by
  by_cases hw : wordWrites w = true
  · by_cases ha : wordAddr w = cmdAddr
    · exact .inr (.inl ⟨hw, ha, by rw [decodeWord, if_pos hw, if_pos ha]⟩)
    · exact .inr (.inr ⟨hw, ha, by rw [decodeWord, if_pos hw, if_neg ha]⟩)
  · have hread := Bool.eq_false_iff.2 hw
    exact .inl ⟨hread, decodeWord_read hread⟩

theorem decodeWord_wellFormed (w : BusWord) : (decodeWord w).WellFormed := by
  obtain ⟨-, e⟩ | ⟨-, -, e⟩ | ⟨-, ha, e⟩ := decodeWord_cases w <;> rw [e]
  · trivial
  · exact decodeCommand_wellFormed _
  · exact ha

/-- A write's word is its three fields, and so is what its row encodes to (R48). -/
theorem encodeWord_decodeWord_write {w : BusWord} (hw : wordWrites w = true) : encodeWord (decodeWord w) = w := by
  have hfields := packWord_fields w
  rw [hw] at hfields
  obtain ⟨hread, -⟩ | ⟨-, ha, e⟩ | ⟨-, -, e⟩ := decodeWord_cases w
  · exact absurd (hread.symm.trans hw) Bool.false_ne_true
  · rw [e, encodeWord_decodeCommand, ← ha, hfields]
  · rw [e, encodeWord, hfields]

/-- A read's DATA is not kept: it becomes 0x00 (R48). -/
theorem encodeWord_decodeWord_read {w : BusWord} (hw : wordWrites w = false) :
    encodeWord (decodeWord w) = BitVec.ofNat 19 (w.toNat / 256 * 256) := by
  have hlt : w.toNat < 262144 := by simpa [wordWrites_eq] using hw
  rw [decodeWord_read hw]
  apply BitVec.eq_of_toNat_eq
  rw [encodeWord, packWord_toNat, wordAddr_toNat, BitVec.toNat_ofNat, Bool.toNat_false, BitVec.toNat_ofNat]
  omega

/-- Every instruction's encoding fits its row of the opcode table. -/
theorem encodeWord_fits_row (i : Instr) : encodeWord i &&& i.tableMask = i.tableMatch := by
  cases i with
  | hostRd a => exact Laws.TableRow.hostRd a
  | hostWr a v => exact Laws.TableRow.hostWr a v
  | encode => exact Laws.TableRow.encode
  | decode => exact Laws.TableRow.decode
  | verify => exact Laws.TableRow.verify
  | frameCk => exact Laws.TableRow.frameCk
  | clear => exact Laws.TableRow.clear
  | illegalCmd c => exact Laws.TableRow.illegalCmd c

/-- The mask of HOST_RD looks at W alone. -/
theorem readWord_fits_row {w : BusWord} (hw : wordWrites w = false) : w &&& 0x40000#19 = 0x00000#19 := by
  rw [wordWrites] at hw
  rw [show 0x40000#19 = BitVec.twoPow 19 18 from rfl, BitVec.and_twoPow, if_neg (Bool.eq_false_iff.1 hw)]

end Sys2Proof.Machine
end

section
/-! CERTIFICATES. The encoding of every instruction and the decoding of every bus word. -/

namespace Sys2Proof.Proofs

open Sys2Proof.Machine Sys2Proof.Certificates

/-- Settles O1: row by row; the decoder finds the three packed fields again, and the code of R50. -/
theorem decodeOfEncodedInstruction : Obligations.DecodeOfEncodedInstruction := by
  intro i hwf
  cases i with
  | hostRd a => exact decodeWord_readWord a 0x00#8
  | hostWr a v => exact decodeWord_writeWord hwf v
  | encode => exact decodeWord_cmdWrite 0x01#8
  | decode => exact decodeWord_cmdWrite 0x02#8
  | verify => exact decodeWord_cmdWrite 0x03#8
  | frameCk => exact decodeWord_cmdWrite 0x04#8
  | clear => exact decodeWord_cmdWrite 0x05#8
  | illegalCmd c => exact (decodeWord_cmdWrite c).trans (decodeCommand_reserved hwf)

/-- Settles O2: a write is given back whole, a read but for its DATA; W = 0 is the lower half of the words. -/
theorem encodeOfDecodedWord : Obligations.EncodeOfDecodedWord := by
  intro w
  refine ⟨decodeWord_wellFormed w, ?_⟩
  have hW := wordWrites_eq w
  split_ifs with hread
  · exact encodeWord_decodeWord_read (hW.trans (decide_eq_false hread.not_ge))
  · exact encodeWord_decodeWord_write (hW.trans (decide_eq_true (Nat.not_lt.1 hread)))

/-- Settles O5: a write is the encoding of its row; a read's mask looks at W alone. -/
theorem decodedWordFitsItsTableRow : Obligations.DecodedWordFitsItsTableRow := by
  intro w
  cases hw : wordWrites w with
  | false =>
    rw [decodeWord_read hw]
    exact readWord_fits_row hw
  | true => simpa only [encodeWord_decodeWord_write hw] using encodeWord_fits_row (decodeWord w)

/-- Settles O6: each number is below 2^19 and decodes by its three fields. -/
theorem wordsOfTheSpecDecode : Obligations.WordsOfTheSpecDecode := by
  unfold Obligations.WordsOfTheSpecDecode
  decide

end Sys2Proof.Proofs
end

section
/-! SUPPORT. What a step can do to the PFCV, said once, and what every step then keeps. -/

namespace Sys2Proof.Machine

/-! ### One step -/

section OneStep
variable {s : State} {rest : List HostEvent}

/-- R6, log 2. -/
theorem step_of_idle (h : s.script = []) : step s = .next s := by
  simp [step, State.nextEvent, h]

/-- R42, R48. -/
theorem step_of_txn {w : BusWord} (h : s.script = .txn w :: rest) :
    step s = exec (decodeWord w) { s with script := rest } := by
  simp [step, State.nextEvent, h]

/-- R87, log 4. -/
theorem step_of_reset (h : s.script = .reset :: rest) :
    step s = .next { s with script := rest }.applyReset := by
  simp [step, State.nextEvent, h]

theorem step_completes (s : State) : ∃ t, step s = .next t := by
  cases h : s.script with
  | nil => exact ⟨_, step_of_idle h⟩
  | cons e rest =>
    cases e with
    | txn w => exact step_of_txn h ▸ exec_completes _ _
    | reset => exact ⟨_, step_of_reset h⟩

end OneStep

theorem stepMany_succ {s t : State} (h : step s = .next t) (n : Nat) : stepMany (n + 1) s = stepMany n t := by
  rw [stepMany, h]

/-- A transaction neither reads nor writes what the host does next (log 1). -/
theorem exec_withScript (i : Instr) (s : State) (script : List HostEvent) : After i s fun t =>
    t.script = s.script ∧ exec i { s with script := script } = .next { t with script := script } := by
  cases i <;> exact ⟨_, rfl, rfl, rfl⟩

theorem busWordOfNat_toNat (w : BusWord) : busWordOfNat 24 w.toNat = some w := by
  have hlt := w.isLt
  have hmod : w.toNat % 2 ^ 24 = w.toNat := Nat.mod_eq_of_lt (by omega)
  rw [busWordOfNat, hmod, if_pos hlt, BitVec.ofNat_toNat, BitVec.setWidth_eq]

/-! ### What a step does to the PFCV -/

/-- A transaction reads, writes one place that is not CMD, or runs a command. -/
theorem exec_dev_cases (i : Instr) (s : State) : After i s fun t =>
    t.dev = s.dev ∨ (∃ a v, a ≠ cmdAddr ∧ t.dev = s.dev.memWrite a v) ∨ ∃ c, t.dev = s.dev.runCommand c := by
  cases i with
  | hostRd a => exact ⟨_, rfl, .inl rfl⟩
  | hostWr a v =>
    by_cases ha : a = cmdAddr
    · exact ⟨_, rfl, .inr (.inr ⟨commandOf v, by rw [ha]; rfl⟩)⟩
    · exact ⟨_, rfl, .inr (.inl ⟨a, v, ha, rfl⟩)⟩
  | encode => exact ⟨_, rfl, .inr (.inr ⟨.encode, rfl⟩)⟩
  | decode => exact ⟨_, rfl, .inr (.inr ⟨.decode, rfl⟩)⟩
  | verify => exact ⟨_, rfl, .inr (.inr ⟨.verify, rfl⟩)⟩
  | frameCk => exact ⟨_, rfl, .inr (.inr ⟨.frameCk, rfl⟩)⟩
  | clear => exact ⟨_, rfl, .inr (.inr ⟨.clear, rfl⟩)⟩
  | illegalCmd c => exact ⟨_, rfl, .inr (.inr ⟨.illegal, rfl⟩)⟩

/-- Whatever holds at every reset, and is kept by a host write and by each command, is kept by every step. -/
theorem step_keeps {P : Device → Prop} (hreset : ∀ fill, P (Device.reset fill))
    (hwrite : ∀ d a v, a ≠ cmdAddr → P d → P (d.memWrite a v)) (hcommand : ∀ d c, P d → P (d.runCommand c))
    {s t : State} (hs : P s.dev) (hstep : step s = .next t) : P t.dev := by
  cases h : s.script with
  | nil =>
    obtain rfl := Host.Outcome.next.inj (hstep.symm.trans (step_of_idle h))
    exact hs
  | cons e rest =>
    cases e with
    | reset =>
      obtain rfl := Host.Outcome.next.inj (hstep.symm.trans (step_of_reset h))
      exact hreset _
    | txn w =>
      have hexec := (step_of_txn h).symm.trans hstep
      obtain e | ⟨a, v, ha, e⟩ | ⟨c, e⟩ := (after_iff hexec).1 (exec_dev_cases _ _) <;> rw [e]
      · exact hs
      · exact hwrite _ a v ha hs
      · exact hcommand _ c hs

/-! ### The canonical form of PBUF -/

theorem Device.pbuf_wf_memWrite {d : Device} (h : d.pbuf.wf = true) (a : Addr) (v : Byte) :
    (d.memWrite a v).pbuf.wf = true := by
  obtain ⟨ha, e⟩ | ⟨-, e⟩ | ⟨-, e⟩ | ⟨-, e⟩ | ⟨-, e⟩ | ⟨-, -, e⟩ | ⟨-, e⟩ := d.memWrite_cases a v <;> rw [e]
  case inl => exact d.pbuf.wf_write (Nat.lt_succ_of_le ha) v h
  case inr.inl => rwa [(d.runCommand_inputs _).1]
  all_goals exact h

/-! ### The bound of the payload sum -/

theorem Memory.byteSum_le_mul (m : Memory) (n : Nat) : m.byteSum n ≤ n * 255 := by
  induction n with
  | zero => exact Nat.le_refl 0
  | succ n ih =>
    have hbyte := (m.read n).isLt
    rw [byteSum]
    omega

section SumBound
variable (m : Memory) {n : Nat} (hn : n ≤ 255)
include hn

/-- R68. -/
theorem Memory.byteSum_le : m.byteSum n ≤ 0xFE01 := by
  have h := m.byteSum_le_mul n
  omega

theorem Memory.sum16_toNat_eq_byteSum : (m.sum16 n).toNat = m.byteSum n := by
  have h := m.byteSum_le hn
  rw [sum16_toNat]
  omega

theorem Memory.sum16_le : (m.sum16 n).toNat ≤ 0xFE01 :=
  (m.sum16_toNat_eq_byteSum hn).trans_le (m.byteSum_le hn)

end SumBound

/-! ### The invariant -/

theorem Device.inv_reset (fill : Nat) : (Device.reset fill).Inv where
  pbufForm := Memory.wf_fresh fill
  errCode := Nat.zero_le 6
  errSticky := fun h => absurd rfl h
  payloadHeader := nofun
  payloadSum := nofun
  txLatched := .inl ⟨rfl, rfl, rfl⟩
  txShown := nofun
  ckCalcSum := Nat.zero_le _

theorem ErrCode.value_le (code : ErrCode) : code.value.toNat ≤ 6 := by
  cases code <;> decide

namespace Device.Inv
variable {d : Device} (h : d.Inv)
include h

/-- A host write but to CMD reaches PBUF, of which it keeps the form, and no item the rest of the invariant names. -/
theorem memWrite {a : Addr} (ha : a ≠ cmdAddr) (v : Byte) : (d.memWrite a v).Inv := by
  obtain ⟨hstatus, hhlen, hlen, hhdr, -, -, hrxCk, hckCalc⟩ := d.memWrite_keeps_results ha v
  constructor
  case pbufForm => exact pbuf_wf_memWrite h.pbufForm a v
  case errCode => rw [hstatus]; exact h.errCode
  case errSticky => rw [hstatus]; exact h.errSticky
  case payloadHeader => rw [hstatus]; exact h.payloadHeader
  case payloadSum => rw [hstatus, hrxCk]; exact h.payloadSum
  case txLatched => rw [TxLatched, hhlen, hlen, hhdr]; exact h.txLatched
  case txShown => rw [hstatus, hhlen]; exact h.txShown
  case ckCalcSum => rw [hckCalc]; exact h.ckCalcSum

/-- R75: an error shows in ANY_ERR. -/
theorem fail (code : ErrCode) : (d.fail code).Inv :=
  { h with errCode := code.value_le, errSticky := fun _ => rfl }

theorem withoutFrame : { d with status := { d.status with txValid := false } }.Inv := { h with txShown := nofun }

theorem withoutPayload (hdr : Bool) : { d with status := { d.status with payloadOk := false, hdrValid := hdr } }.Inv :=
  { h with payloadHeader := nofun, payloadSum := nofun }

theorem withCkCalc {ck : Half} (hck : ck.toNat ≤ 0xFE01) : { d with ckCalc := ck }.Inv := { h with ckCalcSum := hck }

theorem encodeCommand : (encodeCommand d).Inv := by
  obtain ⟨-, e⟩ | ⟨-, e⟩ := encodeCommand_cases d <;> rw [e]
  · exact h.withoutFrame.fail .payloadTooLong
  · exact { h with
      errCode := Nat.zero_le 6
      errSticky := fun hne => absurd rfl hne
      txLatched := .inr (.inl ⟨rfl, rfl⟩)
      txShown := fun _ => show 4#8 ≠ 0#8 by decide }

theorem frameCkCommand : (frameCkCommand d).Inv := by
  obtain ⟨-, e⟩ | ⟨hcnt, e⟩ := frameCkCommand_cases d <;> rw [e]
  · exact h.withoutFrame.fail .payloadTooLong
  · have hsum := d.pbuf.sum16_le hcnt
    exact { h with
      errCode := Nat.zero_le 6
      errSticky := fun hne => absurd rfl hne
      txLatched := .inr (.inr ⟨rfl, rfl, by rwa [le16_lo8_hi8]⟩)
      txShown := fun _ => show 6#8 ≠ 0#8 by decide
      ckCalcSum := hsum }

theorem decodeHeaderCommand : (decodeHeaderCommand d).Inv := by
  obtain ⟨-, e⟩ | ⟨-, e⟩ := decodeHeaderCommand_cases d <;> rw [e]
  · exact { h with
      errCode := Nat.zero_le 6
      errSticky := fun hne => absurd rfl hne
      payloadHeader := nofun
      payloadSum := nofun }
  · exact (h.withoutPayload false).fail .invalidSync

/-- VERIFY vouches for a payload only under a valid header, and for a checksum that is a sum. -/
theorem verifyCommand : (verifyCommand d).Inv := by
  have hsum : (d.pbuf.sum16 d.rxLen.toNat).toNat ≤ 0xFE01 := d.pbuf.sum16_le (Nat.lt_succ_iff.1 d.rxLen.isLt)
  obtain ⟨-, e⟩ | ⟨-, -, e⟩ | ⟨hhdr, -, heq, e⟩ | ⟨-, -, -, e⟩ := verifyCommand_cases d <;> rw [e]
  · exact (h.withoutPayload d.status.hdrValid).fail .sequenceError
  · exact (h.withoutPayload d.status.hdrValid).fail .malformedLength
  · exact { h with
      errCode := Nat.zero_le 6
      errSticky := fun hne => absurd rfl hne
      payloadHeader := fun _ => hhdr
      payloadSum := fun _ => heq ▸ hsum
      ckCalcSum := hsum }
  · exact ((h.withCkCalc hsum).withoutPayload d.status.hdrValid).fail .checksumMismatch

theorem clearCommand : (clearCommand d).Inv := { Device.inv_reset d.pbuf.fill with pbufForm := h.pbufForm }

theorem runCommand (c : Command) : (d.runCommand c).Inv := by
  cases c with
  | encode => exact h.encodeCommand
  | decode => exact h.decodeHeaderCommand
  | verify => exact h.verifyCommand
  | frameCk => exact h.frameCkCommand
  | clear => exact h.clearCommand
  | illegal => exact h.fail .illegalCmd

end Device.Inv

end Sys2Proof.Machine
end

section
/-! CERTIFICATES. Steps: what each does, the order they come in, and what all of them keep. -/

namespace Sys2Proof.Proofs

open Sys2Proof.Machine Sys2Proof.Certificates

/-- Settles O54: a reset, a host write and each command keep the invariant, and a step does nothing else. -/
theorem stepKeepsTheInvariant : Obligations.StepKeepsTheInvariant :=
  fun _ _ hinv => step_keeps Device.inv_reset (fun _ _ v ha h => h.memWrite ha v) (fun _ c h => h.runCommand c) hinv

/-- Settles O56: a write lies inside PBUF, a command keeps PBUF and a reset empties its list. -/
theorem stepKeepsPbufCanonical : Obligations.StepKeepsPbufCanonical :=
  fun _ _ hwf => step_keeps (P := fun d => d.pbuf.wf = true) Memory.wf_fresh
    (fun _ a v _ h => Device.pbuf_wf_memWrite h a v) (fun d c h => by rwa [(d.runCommand_inputs c).1]) hwf

/-- Settles O10: by induction on the words, each taken off the front of the script and run. -/
theorem transactionsRunInHostOrder : Obligations.TransactionsRunInHostOrder := by
  intro ws rest s hscript
  induction ws generalizing s with
  | nil =>
    obtain rfl : s.script = rest := hscript
    rfl
  | cons w ws ih =>
    obtain ⟨t, ht, htscript, hrest⟩ := exec_withScript (decodeWord w) { s with script := ws.map .txn ++ rest } rest
    calc stepMany (ws.length + 1) s
        = stepMany ws.length t := stepMany_succ ((step_of_txn hscript).trans ht) _
      _ = execAll (ws.map decodeWord) { t with script := rest } := ih t htscript
      _ = execAll ((w :: ws).map decodeWord) { s with script := rest } := (execAll_cons hrest _).symm

/-- Settles O7: the next event is the word; `withFetchWord` puts it before the script, which the step then restores. -/
theorem stepRunsTheDecodedTransaction : Obligations.StepRunsTheDecodedTransaction := by
  refine ⟨fun s w rest h => step_of_txn h, fun s w => ?_⟩
  rw [State.withFetchWord, busWordOfNat_toNat]
  exact step_of_txn rfl

/-- Settles O8: the script has no event to take. -/
theorem stepWithNothingToDoIsIdle : Obligations.StepWithNothingToDoIsIdle := fun _ h => step_of_idle h

/-- Settles O9: by the next event, if there is one. -/
theorem noStepStops : Obligations.NoStepStops := step_completes

/-- Settles O12: a step with a reset to do is `applyReset`. -/
theorem resetInputResets : Obligations.ResetInputResets :=
  fun _ _ h => ⟨_, step_of_reset h, rfl, rfl, rfl, Memory.read_fresh _⟩

/-- Settles O55: `State.reset` is the reset with free contents number 0. -/
theorem resetMeetsTheInvariant : Obligations.ResetMeetsTheInvariant := Device.inv_reset 0

end Sys2Proof.Proofs
end

section
/-! SUPPORT. How the payload sum moves with the payload, and the state a successful VERIFY leaves. -/

namespace Sys2Proof.Machine

/-! ### The sum and a write to PBUF -/

section SumAndWrite
variable (m : Memory)

theorem Memory.byteSum_eq_sum_payload (n : Nat) : m.byteSum n = ((m.payload n).map BitVec.toNat).sum := by
  rw [byteSum_eq_sum_map, payload, List.map_map]
  rfl

/-- A byte outside the summed ones does not count. -/
theorem Memory.sum16_write_outside {n k : Nat} (h : n ≤ k) (v : Byte) : (m.write k v).sum16 n = m.sum16 n :=
  sum16_congr fun _ hi => m.read_write_other v (by omega)

/-- A byte among the summed ones counts by its own value. -/
theorem Memory.byteSum_write {j n : Nat} (h : j < n) (v : Byte) :
    (m.write j v).byteSum n + (m.read j).toNat = m.byteSum n + v.toNat := by
  induction n with
  | zero => exact absurd h j.not_lt_zero
  | succ n ih =>
    simp only [byteSum]
    by_cases hj : j = n
    · have hrest : (m.write j v).byteSum n = m.byteSum n := byteSum_congr fun _ hi => m.read_write_other v (by omega)
      rw [hrest, ← hj, read_write_same]
      omega
    · rw [m.read_write_other v hj]
      have hrest := ih (by omega)
      omega

theorem Memory.sum16_eq_of_byteSum_eq {m m' : Memory} {n : Nat} (h : m.byteSum n = m'.byteSum n) :
    m.sum16 n = m'.sum16 n := by
  rw [sum16, sum16, h]

/-- Below the bound of R68 equal checksums are equal sums. -/
theorem Memory.sum16_eq_iff {m m' : Memory} {n : Nat} (hn : n ≤ 255) :
    m.sum16 n = m'.sum16 n ↔ m.byteSum n = m'.byteSum n := by
  rw [← BitVec.toNat_inj, m.sum16_toNat_eq_byteSum hn, m'.sum16_toNat_eq_byteSum hn]

end SumAndWrite

/-- R69: reducing mod 2^w at every addition, for w of at least 16, keeps the sum mod 2^16. -/
theorem foldl_accumulator_mod {w : Nat} (hw : 16 ≤ w) (bytes : List Byte) (acc : Nat) :
    bytes.foldl (fun acc b => (acc + b.toNat) % 2 ^ w) acc % 2 ^ 16 =
      (acc + (bytes.map BitVec.toNat).sum) % 2 ^ 16 := by
  induction bytes generalizing acc with
  | nil => rfl
  | cons b bytes ih =>
    have hdvd : 2 ^ 16 ∣ 2 ^ w := Nat.pow_dvd_pow 2 hw
    rw [List.foldl_cons, ih, List.map_cons, List.sum_cons, ← Nat.mod_add_mod, Nat.mod_mod_of_dvd _ hdvd,
      Nat.mod_add_mod, Nat.add_assoc]

/-! ### A command with another PBUF -/

/-- A command sees PBUF only through the sum it takes. -/
theorem isCommand_withPbuf {i : Instr} (hi : IsCommand i) (s : State) (m : Memory)
    (hv : i = .verify → m.sum16 s.dev.rxLen.toNat = s.dev.pbuf.sum16 s.dev.rxLen.toNat)
    (hf : i = .frameCk → s.dev.cnt.toNat ≤ 255 → m.sum16 s.dev.cnt.toNat = s.dev.pbuf.sum16 s.dev.cnt.toNat) :
    After i s fun t => exec i { s with dev := { s.dev with pbuf := m } } =
      .next { t with dev := { t.dev with pbuf := m } } := by
  have run (c : Command) (hexec : ∀ s, exec i s = .next (s.withDev (s.dev.runCommand c)))
      (hverify : c = .verify → i = .verify) (hframeCk : c = .frameCk → i = .frameCk) :
      After i s fun t => exec i { s with dev := { s.dev with pbuf := m } } =
        .next { t with dev := { t.dev with pbuf := m } } := by
    refine ⟨_, hexec s, ?_⟩
    rw [hexec, s.dev.runCommand_withPbuf m c (fun hc => hv (hverify hc)) fun hc => hf (hframeCk hc)]
    rfl
  cases i with
  | hostRd a => exact hi.elim
  | hostWr a v => exact hi.elim
  | encode => exact run .encode exec_encode nofun nofun
  | decode => exact run .decode exec_decode nofun nofun
  | verify => exact run .verify exec_verify (fun _ => rfl) nofun
  | frameCk => exact run .frameCk exec_frameCk nofun fun _ => rfl
  | clear => exact run .clear exec_clear nofun nofun
  | illegalCmd c => exact run .illegal (exec_illegalCmd c) nofun nofun

/-! ### The state a successful VERIFY leaves -/

/-- What VERIFY has found when it ends OK (R70). -/
structure Device.Verified (d : Device) : Prop where
  hdrValid : d.status.hdrValid = true
  cnt : d.cnt.toNat = d.rxLen.toNat
  sum : d.pbuf.sum16 d.rxLen.toNat = d.rxCk
  payloadOk : d.status.payloadOk = true
  err : d.status.err = 0#4

theorem verified_of_verify_ok {s t : State} (h : exec .verify s = .next t) (hok : t.dev.status.err = 0#4) :
    t.dev.Verified := by
  obtain rfl := Host.Outcome.next.inj ((exec_verify s).symm.trans h)
  rw [State.withDev_dev] at hok ⊢
  obtain ⟨-, e⟩ | ⟨-, -, e⟩ | ⟨hhdr, hcnt, hsum, e⟩ | ⟨-, -, -, e⟩ := verifyCommand_cases s.dev <;> rw [e] at hok ⊢
  case inr.inr.inl => exact ⟨hhdr, hcnt, hsum, rfl, rfl⟩
  all_goals simp at hok

namespace Device.Verified
variable {d : Device} (h : d.Verified) {m : Memory}
include h

/-- VERIFY accepts every payload of the accepted sum. -/
theorem status_of_byteSum_eq (hm : m.byteSum d.rxLen.toNat = d.pbuf.byteSum d.rxLen.toNat) :
    (verifyCommand { d with pbuf := m }).status = d.status := by
  have hsum : m.sum16 d.rxLen.toNat = d.rxCk := (Memory.sum16_eq_of_byteSum_eq hm).trans h.sum
  rw [verifyCommand_of_sum16_eq (d := { d with pbuf := m }) h.hdrValid h.cnt hsum]
  simp only [← h.payloadOk, ← h.err]

/-- VERIFY rejects every payload of another sum. -/
theorem status_of_byteSum_ne (hm : m.byteSum d.rxLen.toNat ≠ d.pbuf.byteSum d.rxLen.toNat) :
    (verifyCommand { d with pbuf := m }).status =
      Certificates.Status.failed { d.status with payloadOk := false } 2#4 := by
  have hsum : m.sum16 d.rxLen.toNat ≠ d.rxCk := fun heq =>
    hm ((Memory.sum16_eq_iff (Nat.lt_succ_iff.1 d.rxLen.isLt)).1 (heq.trans h.sum.symm))
  rw [verifyCommand_of_sum16_ne (d := { d with pbuf := m }) h.hdrValid h.cnt hsum]

end Device.Verified

/-- A write to PBUF[j] by its bus address (R35). -/
theorem Device.memWrite_ofNat (d : Device) {j : Nat} (hj : j < 256) (v : Byte) :
    d.memWrite (BitVec.ofNat 10 j) v = { d with pbuf := d.pbuf.write j v } := by
  have haddr : (BitVec.ofNat 10 j).toNat = j := by rw [BitVec.toNat_ofNat]; omega
  rw [d.memWrite_pbuf (by omega), haddr]

end Sys2Proof.Machine
end

section
/-! CERTIFICATES. The checksum: its bound, its width, what it sees of PBUF and which changes of a payload it finds. -/

namespace Sys2Proof.Proofs

open Sys2Proof.Machine Sys2Proof.Certificates

/-- Settles O40: at most 255 bytes of at most 255 each; VERIFY ends OK only when RX_CK is such a sum. -/
theorem checksumNeverOverflows : Obligations.ChecksumNeverOverflows := by
  refine ⟨fun m n hn => ⟨m.byteSum_le hn, m.sum16_toNat_eq_byteSum hn⟩, fun s hck => ?_⟩
  have hbound := s.dev.pbuf.sum16_le (Nat.lt_succ_iff.1 s.dev.rxLen.isLt)
  rw [after_verify, State.withDev_dev]
  obtain ⟨-, e⟩ | ⟨-, -, e⟩ | ⟨-, -, hsum, -⟩ | ⟨-, -, -, e⟩ := verifyCommand_cases s.dev
  case inr.inr.inl =>
    rw [hsum] at hbound
    omega
  all_goals simp [e]

/-- Settles O41: 2^16 divides 2^w, so the reductions do not show in the low 16 bits. -/
theorem accumulatorWidthIsImmaterial : Obligations.AccumulatorWidthIsImmaterial := by
  intro m n w hw
  rw [foldl_accumulator_mod hw, Nat.zero_add, m.sum16_toNat, m.byteSum_eq_sum_payload]

/-- Settles O42: the byte is outside the sum, and a command sees PBUF only through its sum. -/
theorem commandsReadOnlyTheirPayload : Obligations.CommandsReadOnlyTheirPayload := by
  intro i s k v hi hverify hframeCk
  have hsame := isCommand_withPbuf hi s (s.dev.pbuf.write k v)
    (fun hi => s.dev.pbuf.sum16_write_outside (hverify hi) v)
    fun hi hcnt => s.dev.pbuf.sum16_write_outside (hframeCk hi hcnt) v
  exact (hsame.and (isCommand_keeps_inputs hi s)).imp fun t ⟨ht, hpbuf, _⟩ => by rw [ht, hpbuf]

/-- Settles O43: the sum of the changed payload is another one, and below the bound of R68 so is its checksum. -/
theorem singleByteMutationIsDetected : Obligations.SingleByteMutationIsDetected := by
  intro s t j v hverify hok hj hv
  have hverified := verified_of_verify_ok hverify hok
  have hlen := t.dev.rxLen.isLt
  have hbyte : v.toNat ≠ (t.dev.pbuf.read j).toNat := mt BitVec.eq_of_toNat_eq hv
  have hsum : (t.dev.pbuf.write j v).byteSum t.dev.rxLen.toNat ≠ t.dev.pbuf.byteSum t.dev.rxLen.toNat := by
    have hmoved := t.dev.pbuf.byteSum_write hj v
    omega
  rw [afterAll_cons, after_hostWr, afterAll_cons, after_verify, afterAll_nil, State.withDev_dev, State.withDev_dev,
    t.dev.memWrite_ofNat (by omega), hverified.status_of_byteSum_ne hsum]
  exact ⟨rfl, rfl, rfl⟩

/-- Settles O44: VERIFY accepts every payload of the accepted sum; a permutation keeps it, and so do two changes that
cancel. -/
theorem reorderingIsNotDetected : Obligations.ReorderingIsNotDetected := by
  intro s t hverify hok
  have hverified := verified_of_verify_ok hverify hok
  refine ⟨fun m hperm => ?_, fun j k v w hj hk hjk hvw => ?_⟩
  · have hsum : m.byteSum t.dev.rxLen.toNat = t.dev.pbuf.byteSum t.dev.rxLen.toNat := by
      rw [m.byteSum_eq_sum_payload, t.dev.pbuf.byteSum_eq_sum_payload, (hperm.map _).sum_eq]
    exact after_verify.2 (hverified.status_of_byteSum_eq hsum)
  · have hlen := t.dev.rxLen.isLt
    have hsum : ((t.dev.pbuf.write j v).write k w).byteSum t.dev.rxLen.toNat =
        t.dev.pbuf.byteSum t.dev.rxLen.toNat := by
      have hfirst := t.dev.pbuf.byteSum_write hj v
      have hsecond := (t.dev.pbuf.write j v).byteSum_write hk w
      rw [t.dev.pbuf.read_write_other v hjk] at hsecond
      omega
    rw [afterAll_cons, after_hostWr, afterAll_cons, after_hostWr, afterAll_cons, after_verify, afterAll_nil,
      State.withDev_dev, State.withDev_dev, State.withDev_dev, t.dev.memWrite_ofNat (by omega),
      Device.memWrite_ofNat _ (by omega)]
    exact hverified.status_of_byteSum_eq hsum

end Sys2Proof.Proofs
end

section
/-! SUPPORT. A host write read back at its own and at every other address below FRAME, and done twice. -/

namespace Sys2Proof.Machine

open Sys2Proof.Certificates

/-! ### The address of a place -/

/-- R35 read from right to left: the address that names a place (0 for a reserved one, which several name). -/
def Place.addr : Place → Nat
  | .pbuf i => i
  | .cmd => 0x100
  | .status => 0x101
  | .txType => 0x102
  | .cntLo => 0x104
  | .cntHi => 0x105
  | .txHlen => 0x106
  | .txLen => 0x107
  | .txhdr i => 0x108 + i
  | .rxhdr i => 0x110 + i
  | .rxType => 0x118
  | .rxLen => 0x119
  | .rxCkLo => 0x11A
  | .rxCkHi => 0x11B
  | .ckCalcLo => 0x11C
  | .ckCalcHi => 0x11D
  | .frame i => 0x200 + i
  | .reserved => 0

/-- The address `n` is the one that names `p`, if only one does. -/
def Place.NamedAt (p : Place) (n : Nat) : Prop := p = .reserved ∨ n = p.addr

theorem Place.NamedAt.ite {c : Prop} [Decidable c] {p q : Place} {n : Nat} (hp : c → n = p.addr) (hq : q.NamedAt n) :
    (if c then p else q).NamedAt n := by
  split
  · exact .inr (hp ‹c›)
  · exact hq

/-- Row by row of R35's table, in its order. -/
theorem placeAt_namedAt (n : Nat) : (placeAt n).NamedAt n :=
  .ite (fun _ => rfl) <| .ite (fun h => (Nat.add_sub_of_le h).symm) <| .ite id <| .ite id <| .ite id <| .ite id <|
  .ite id <| .ite id <| .ite id <| .ite (fun h => (Nat.add_sub_of_le h.1).symm) <|
  .ite (fun h => (Nat.add_sub_of_le h.1).symm) <| .ite id <| .ite id <| .ite id <| .ite id <| .ite id <| .ite id <|
  .inl rfl

/-- No two addresses name one place, but for the reserved ones. -/
theorem toNat_eq_addr_of_placeOf {a : Addr} {p : Place} (h : placeOf a = p) (hp : p ≠ .reserved) :
    a.toNat = p.addr := by
  subst h
  exact (placeAt_namedAt a.toNat).resolve_left hp

/-! ### A host write read back -/

theorem Header.get_set_other (h : Header) {i j : Nat} (hi : i < 6) (hij : i ≠ j) (v : Byte) :
    (h.set i v).get j = h.get j := by
  by_cases hj : j < 6
  · rw [h.get_set hi hj, if_neg hij]
  · obtain ⟨k, rfl⟩ := Nat.exists_eq_add_of_le' (Nat.not_lt.1 hj)
    rfl

section CntHalves
variable (d : Device)

@[simp] theorem Device.memRead_cntLo : d.memRead 0x104#10 = lo8 d.cnt := rfl
@[simp] theorem Device.memRead_cntHi : d.memRead 0x105#10 = hi8 d.cnt := rfl
@[simp] theorem Device.memWrite_cntLo (v : Byte) : d.memWrite 0x104#10 v = { d with cnt := le16 v (hi8 d.cnt) } := rfl
@[simp] theorem Device.memWrite_cntHi (v : Byte) : d.memWrite 0x105#10 v = { d with cnt := le16 (lo8 d.cnt) v } := rfl

end CntHalves

/-- A 16-bit value is its high byte times 256 and its low byte (R9). -/
theorem half_toNat (n : Half) : n.toNat = (hi8 n).toNat * 256 + (lo8 n).toNat := by
  rw [← le16_toNat, le16_lo8_hi8]

section HostWrite
variable (d : Device) {a : Addr}

/-- Of the host's inputs a write but to CMD reaches only the byte its address names (R38). -/
theorem Device.memWrite_keeps_other_inputs (ha : a ≠ cmdAddr) (v : Byte) :
    (∀ j, a.toNat ≠ j → (d.memWrite a v).pbuf.read j = d.pbuf.read j) ∧
    (a.toNat ≠ 0x102 → (d.memWrite a v).txType = d.txType) ∧
    (a.toNat ≠ 0x104 → lo8 (d.memWrite a v).cnt = lo8 d.cnt) ∧
    (a.toNat ≠ 0x105 → hi8 (d.memWrite a v).cnt = hi8 d.cnt) ∧
    ∀ i, a.toNat ≠ 0x110 + i → (d.memWrite a v).rxhdr.get i = d.rxhdr.get i := by
  obtain ⟨-, e⟩ | ⟨hcmd, -⟩ | ⟨h, e⟩ | ⟨h, e⟩ | ⟨h, e⟩ | ⟨h, h', e⟩ | ⟨-, e⟩ := d.memWrite_cases a v
  · simpa [e] using fun j => d.pbuf.read_write_other v
  · exact absurd (BitVec.eq_of_toNat_eq hcmd) ha
  · simp [e, h]
  · simp [e, h]
  · simp [e, h]
  · simpa [e] using fun i hi => d.rxhdr.get_set_other (by omega) (by omega) v
  · simp [e]

/-- R43 at the address written, where the host can write it. -/
theorem Device.memRead_memWrite_same (ha : a.toNat ≠ 0x100) (hro : ¬(ReservedAddr a.toNat ∨ ReadOnlyAddr a.toNat))
    (v : Byte) : (d.memWrite a v).memRead a = v := by
  have hlt := a.isLt
  obtain h | h | h | h | ⟨h, h'⟩ : a.toNat ≤ 0xFF ∨ a.toNat = 0x102 ∨ a.toNat = 0x104 ∨ a.toNat = 0x105 ∨
      (0x110 ≤ a.toNat ∧ a.toNat ≤ 0x115) := by omega
  · rw [d.memWrite_pbuf h, Device.memRead_pbuf _ h, Memory.read_write_same]
  · obtain rfl : a = 0x102#10 := BitVec.eq_of_toNat_eq h
    rfl
  · obtain rfl : a = 0x104#10 := BitVec.eq_of_toNat_eq h
    exact lo8_le16 v (hi8 d.cnt)
  · obtain rfl : a = 0x105#10 := BitVec.eq_of_toNat_eq h
    exact hi8_le16 (lo8 d.cnt) v
  · have hi : a.toNat - 0x110 < 6 := by omega
    rw [d.memWrite_rxhdr h h', Device.memRead_rxhdr _ h h', Header.get_set _ hi hi, if_pos rfl]

/-- R43 at every other address below FRAME. -/
theorem Device.memRead_memWrite_other {b : Addr} (hab : b ≠ a) (ha : a ≠ cmdAddr) (hb : b.toNat < 0x200) (v : Byte) :
    (d.memWrite a v).memRead b = d.memRead b := by
  have haddr {p : Place} (hp : placeOf b = p) (hne : p ≠ .reserved) : a.toNat ≠ p.addr := fun h =>
    hab (BitVec.eq_of_toNat_eq ((toNat_eq_addr_of_placeOf hp hne).trans h.symm))
  obtain ⟨hpbuf, htxType, hcntLo, hcntHi, hrxhdr⟩ := d.memWrite_keeps_other_inputs ha v
  obtain ⟨hstatus, hhlen, hlen, htxhdr, hrxType, hrxLen, hrxCk, hckCalc⟩ := d.memWrite_keeps_results ha v
  simp only [memRead, hstatus, hhlen, hlen, htxhdr, hrxType, hrxLen, hrxCk, hckCalc]
  cases hp : placeOf b
  case pbuf i => exact hpbuf i (haddr hp nofun)
  case txType => exact htxType (haddr hp nofun)
  case cntLo => exact hcntLo (haddr hp nofun)
  case cntHi => exact hcntHi (haddr hp nofun)
  case rxhdr i => exact hrxhdr i (haddr hp nofun)
  case frame i =>
    have hframe : b.toNat = 0x200 + i := toNat_eq_addr_of_placeOf hp nofun
    omega
  all_goals rfl

end HostWrite

/-! ### A transaction done twice -/

theorem putCell_putCell (i : Nat) (v : Byte) (cells : List Host.Cell) :
    putCell i v (putCell i v cells) = putCell i v cells := by
  induction cells with
  | nil => simp [putCell]
  | cons c rest ih =>
    obtain ⟨k, b⟩ := c
    by_cases hlt : i < k
    · simp [putCell, hlt]
    · by_cases heq : i = k
      · simp [putCell, heq]
      · simp [putCell, hlt, heq, ih]

theorem Memory.write_write (m : Memory) (i : Nat) (v : Byte) : (m.write i v).write i v = m.write i v := by
  simp only [write, putCell_putCell]

section Build
variable {d : Device}

/-- R61, PAYLOAD_TOO_LONG. -/
theorem encodeCommand_of_cnt_gt (h : 255 < d.cnt.toNat) : encodeCommand d = { d with
    status := Status.failed { d.status with txValid := false } 4#4 } :=
  ((encodeCommand_cases d).resolve_right fun hbuilt => hbuilt.1.not_gt h).2

/-- R61, success. -/
theorem encodeCommand_of_cnt_le (h : d.cnt.toNat ≤ 255) : encodeCommand d = { d with
    txhdr := ⟨0xAE#8, 0xC1#8, d.txType, BitVec.ofNat 8 d.cnt.toNat, 0x00#8, 0x00#8⟩
    txHlen := 4#8
    txLen := BitVec.ofNat 8 d.cnt.toNat
    status := { d.status with txValid := true, err := 0#4 } } :=
  ((encodeCommand_cases d).resolve_left fun hlong => h.not_gt hlong.1).2

end Build

section Twice
variable (d : Device)

theorem encodeCommand_twice : encodeCommand (encodeCommand d) = encodeCommand d := by
  have hcnt : (encodeCommand d).cnt = d.cnt := by simp
  by_cases h : d.cnt.toNat ≤ 255
  · rw [encodeCommand_of_cnt_le (hcnt ▸ h), encodeCommand_of_cnt_le h]
  · have hlong := Nat.not_le.1 h
    rw [encodeCommand_of_cnt_gt (hcnt ▸ hlong), encodeCommand_of_cnt_gt hlong]

theorem frameCkCommand_twice : frameCkCommand (frameCkCommand d) = frameCkCommand d := by
  have hcnt : (frameCkCommand d).cnt = d.cnt := by simp
  by_cases h : d.cnt.toNat ≤ 255
  · rw [frameCkCommand_of_cnt_le (hcnt ▸ h), frameCkCommand_of_cnt_le h]
  · have hlong := Nat.not_le.1 h
    rw [frameCkCommand_of_cnt_gt (hcnt ▸ hlong), frameCkCommand_of_cnt_gt hlong]

theorem decodeHeaderCommand_twice : decodeHeaderCommand (decodeHeaderCommand d) = decodeHeaderCommand d := by
  obtain ⟨-, -, -, -, -, -, hrxhdr, -⟩ := decodeHeaderCommand_frame d
  have hsync : SyncAt (decodeHeaderCommand d) ↔ SyncAt d := by rw [SyncAt, hrxhdr]
  by_cases h : SyncAt d
  · rw [decodeHeaderCommand_of_syncAt (hsync.2 h), decodeHeaderCommand_of_syncAt h]
  · rw [decodeHeaderCommand_of_not_syncAt (mt hsync.1 h), decodeHeaderCommand_of_not_syncAt h]

theorem verifyCommand_twice : verifyCommand (verifyCommand d) = verifyCommand d := by
  obtain ⟨hpbuf, -, hcntKept, -, -, -, -, -, hlenKept, hckKept, hhdrKept, -⟩ := verifyCommand_frame d
  obtain ⟨hhdr, e⟩ | ⟨hhdr, hcnt, e⟩ | ⟨hhdr, hcnt, hsum, e⟩ | ⟨hhdr, hcnt, hsum, e⟩ := verifyCommand_cases d
  · rw [verifyCommand_of_not_hdrValid (hhdrKept.trans hhdr), e]
  · rw [verifyCommand_of_cnt_ne (hhdrKept.trans hhdr) (by rwa [hcntKept, hlenKept]), e]
  · rw [verifyCommand_of_sum16_eq (hhdrKept.trans hhdr) (by rwa [hcntKept, hlenKept])
      (by rwa [hpbuf, hlenKept, hckKept]), e]
  · rw [verifyCommand_of_sum16_ne (hhdrKept.trans hhdr) (by rwa [hcntKept, hlenKept])
      (by rwa [hpbuf, hlenKept, hckKept]), e]

theorem Device.runCommand_twice (c : Command) : (d.runCommand c).runCommand c = d.runCommand c := by
  cases c with
  | encode => exact encodeCommand_twice d
  | decode => exact decodeHeaderCommand_twice d
  | verify => exact verifyCommand_twice d
  | frameCk => exact frameCkCommand_twice d
  | clear => rfl
  | illegal => rfl

theorem Header.set_set (h : Header) (i : Nat) (v : Byte) : (h.set i v).set i v = h.set i v := by
  unfold set
  split <;> rfl

/-- R38, R43. -/
theorem Device.memWrite_twice (a : Addr) (v : Byte) : (d.memWrite a v).memWrite a v = d.memWrite a v := by
  simp only [memWrite]
  cases placeOf a
  case pbuf i => simp only [Memory.write_write]
  case cmd => exact d.runCommand_twice _
  case cntLo => simp only [hi8_le16]
  case cntHi => simp only [lo8_le16]
  case rxhdr i => simp only [Header.set_set]
  all_goals rfl

end Twice

end Sys2Proof.Machine
end

section
/-! CERTIFICATES. Host writes and reads, 16-bit registers and STATUS, and what doing a transaction twice does. -/

namespace Sys2Proof.Proofs

open Sys2Proof.Machine Sys2Proof.Certificates

/-- Settles O18: a write reaches the one place its address names, which no other address below FRAME names. -/
theorem hostWriteThenRead : Obligations.HostWriteThenRead := by
  intro a v s ha hcmd
  have hne : a ≠ cmdAddr := fun h => hcmd (congrArg BitVec.toNat h)
  obtain ⟨hpbuf, -⟩ := s.dev.memWrite_keeps_other_inputs hne v
  obtain ⟨hstatus, -⟩ := s.dev.memWrite_keeps_results hne v
  rw [after_hostWr, State.withDev_dev]
  refine ⟨?_, fun b hba hb => s.dev.memRead_memWrite_other hba hne hb v, fun j hj => hpbuf j hj.symm, hstatus, rfl, rfl⟩
  split_ifs with hro
  · have hplace : HostWritable (placeOf a) = false := by apply placeOf_notWritable <;> omega
    rw [s.dev.memWrite_notWritable hplace]
  · exact s.dev.memRead_memWrite_same hcmd hro v

/-- Settles O19: a register is `le16` of its halves, so each half is kept while the other is written. -/
theorem sixteenBitRegistersAreLittleEndian : Obligations.SixteenBitRegistersAreLittleEndian := by
  intro s lo hi
  rw [← le16_eq_ofNat]
  refine ⟨?_, ?_, ?_, fun hsync => ?_⟩
  · simp [State.withDev]
  · simp [State.withDev]
  · simp only [afterAll_cons, after_hostRd, afterAll_nil]
    exact ⟨_, _, _, _, _, _, by simp, half_toNat _, half_toNat _, half_toNat _⟩
  · obtain ⟨-, e⟩ := (decodeHeaderCommand_cases s.dev).resolve_right fun hno => hno.1 hsync
    simp [e]

/-- Settles O23: the byte is the sum of its fields, and STATUS is no writable place. -/
theorem statusByteLayout : Obligations.StatusByteLayout := by
  intro s v
  refine ⟨?_, ?_⟩
  · exact (after_hostRd _).2 ⟨rfl, _, rfl, s.dev.status.toByte_toNat⟩
  · exact (exec_hostWr _ v s).trans rfl

/-- Settles O50: a write puts what is there already, and a command decides and computes from what it leaves as it was. -/
theorem transactionTwiceIsOnce : Obligations.TransactionTwiceIsOnce := by
  intro i s
  have hcommand (hi : IsCommand i) : After i s fun t => exec i t = .next t := by
    obtain ⟨c, hc⟩ := exists_command_of_isCommand hi
    refine ⟨_, hc s, (hc _).trans ?_⟩
    rw [State.withDev_dev, Device.runCommand_twice]
    rfl
  refine ⟨fun hread => ?_, fun a hi => hi ▸ (after_hostRd a).2 rfl⟩
  cases i with
  | hostRd a => exact absurd rfl (hread a)
  | hostWr a v =>
    rw [after_hostWr, exec_hostWr, State.withDev_dev, Device.memWrite_twice]
    rfl
  | encode => exact hcommand trivial
  | decode => exact hcommand trivial
  | verify => exact hcommand trivial
  | frameCk => exact hcommand trivial
  | clear => exact hcommand trivial
  | illegalCmd c => exact hcommand trivial

end Sys2Proof.Proofs
end

section
/-! SUPPORT. Two lists of transactions one after the other, the frame a build leaves, and a header loaded and decoded. -/

namespace Sys2Proof.Machine

open Sys2Proof.Certificates

/-! ### One list after another -/

theorem afterAll_append (is js : List Instr) {s : State} {P : State → Prop} :
    AfterAll (is ++ js) s P ↔ AfterAll is s fun t => AfterAll js t P := by
  induction is generalizing s with
  | nil => simp
  | cons i is ih => simp only [List.cons_append, afterAll_cons, ih]

/-- R94: a read or a write but to CMD keeps what only commands write; a read answers, and nothing answered is lost. -/
theorem after_nonCommand {i : Instr} (hi : i.WellFormed ∧ ¬IsCommand i) (s : State) : After i s fun t =>
    (t.dev.rxCk = s.dev.rxCk ∧ t.dev.ckCalc = s.dev.ckCalc ∧ t.dev.status = s.dev.status) ∧
      ∃ mid, t.answers = s.answers ++ mid := by
  obtain ⟨hwf, hno⟩ := hi
  cases i with
  | hostRd a => exact (after_hostRd a).2 ⟨⟨rfl, rfl, rfl⟩, [_], rfl⟩
  | hostWr a v =>
    obtain ⟨hstatus, -, -, -, -, -, hrxCk, hckCalc⟩ := s.dev.memWrite_keeps_results hwf v
    exact (after_hostWr a v).2 ⟨⟨hrxCk, hckCalc, hstatus⟩, [], (List.append_nil _).symm⟩
  | encode => exact absurd trivial hno
  | decode => exact absurd trivial hno
  | verify => exact absurd trivial hno
  | frameCk => exact absurd trivial hno
  | clear => exact absurd trivial hno
  | illegalCmd c => exact absurd trivial hno

theorem afterAll_nonCommands {is : List Instr} (his : ∀ i ∈ is, i.WellFormed ∧ ¬IsCommand i) (s : State) :
    AfterAll is s fun t =>
      (t.dev.rxCk = s.dev.rxCk ∧ t.dev.ckCalc = s.dev.ckCalc ∧ t.dev.status = s.dev.status) ∧
        ∃ mid, t.answers = s.answers ++ mid := by
  induction is generalizing s with
  | nil => exact afterAll_nil.2 ⟨⟨rfl, rfl, rfl⟩, [], (List.append_nil _).symm⟩
  | cons i is ih =>
    obtain ⟨hi, his⟩ := List.forall_mem_cons.1 his
    rw [afterAll_cons]
    refine (after_nonCommand hi s).imp fun t ⟨⟨hrxCk, hckCalc, hstatus⟩, first, hfirst⟩ => ?_
    refine (ih his t).imp fun u ⟨⟨hrxCk', hckCalc', hstatus'⟩, rest, hrest⟩ => ?_
    exact ⟨⟨hrxCk'.trans hrxCk, hckCalc'.trans hckCalc, hstatus'.trans hstatus⟩, first ++ rest, by
      rw [hrest, hfirst, List.append_assoc]⟩

/-- The answers to a read, then to a list of transactions without a command, then to a read. -/
theorem afterAll_read_nonCommands_read {is : List Instr} (his : ∀ i ∈ is, i.WellFormed ∧ ¬IsCommand i) (s : State)
    (a b : Addr) : AfterAll (.hostRd a :: is ++ [.hostRd b]) s fun t => ∃ (u : State) (mid : List Byte),
      (u.dev.rxCk = s.dev.rxCk ∧ u.dev.ckCalc = s.dev.ckCalc) ∧
      t.answers = s.answers ++ s.dev.memRead a :: mid ++ [u.dev.memRead b] := by
  rw [List.cons_append, afterAll_cons, after_hostRd, afterAll_append]
  refine (afterAll_nonCommands his _).imp fun u ⟨⟨hrxCk, hckCalc, _⟩, mid, hmid⟩ => ?_
  rw [afterAll_cons, after_hostRd, afterAll_nil]
  exact ⟨u, mid, ⟨hrxCk, hckCalc⟩, by simp [hmid]⟩

/-! ### The frame a build leaves -/

/-- The frame is the header latched and the payload of now (R27, R91). -/
theorem Device.SameLatch.frame_eq_header_append_payload {d e : Device} (h : e.SameLatch d)
    (hvalid : d.status.txValid = true) : e.frame (d.txHlen.toNat + d.txLen.toNat) =
      (List.range d.txHlen.toNat).map d.txhdr.get ++ e.pbuf.payload d.txLen.toNat := by
  rw [← h.txHlen, ← h.txLen, ← h.txhdr]
  exact e.frame_eq_header_append_payload (h.txValid.trans hvalid)

theorem Memory.length_payload (m : Memory) (n : Nat) : (m.payload n).length = n := by
  rw [payload, List.length_map, List.length_range]

/-- FRAME[k] below the header's length, by its bus address, is the header's byte k (R27, R35). -/
theorem Device.memRead_frame_header {d : Device} (hvalid : d.status.txValid = true) {a : Addr} {k : Nat}
    (ha : a.toNat = 0x200 + k) (hk : k < d.txHlen.toNat) : d.memRead a = d.txhdr.get k := by
  rw [d.memRead_frame (by omega), ha, Nat.add_sub_cancel_left]
  simp [frameByte, hvalid, hk]

section BuiltFrame
variable {d e : Device} (hcnt : d.cnt.toNat ≤ 255)
include hcnt

theorem encodeCommand_latch : (encodeCommand d).status.txValid = true ∧
    (encodeCommand d).txhdr = ⟨0xAE#8, 0xC1#8, d.txType, BitVec.ofNat 8 d.cnt.toNat, 0x00#8, 0x00#8⟩ := by
  rw [encodeCommand_of_cnt_le hcnt]
  exact ⟨rfl, rfl⟩

theorem frameCkCommand_latch : (frameCkCommand d).status.txValid = true ∧
    (frameCkCommand d).txhdr = ⟨0xAF#8, 0xC1#8, d.txType, BitVec.ofNat 8 d.cnt.toNat,
      lo8 (d.pbuf.sum16 d.cnt.toNat), hi8 (d.pbuf.sum16 d.cnt.toNat)⟩ := by
  rw [frameCkCommand_of_cnt_le hcnt]
  exact ⟨rfl, rfl⟩

/-- R61, R91: the payload shown is PBUF's of now. -/
theorem frame_live_of_encode_latch (h : e.SameLatch (encodeCommand d)) :
    e.frame (4 + d.cnt.toNat) = frameNoCk d.txType (e.pbuf.payload d.cnt.toNat) := by
  obtain ⟨hhlen, hlen⟩ := encodeCommand_lengths hcnt
  obtain ⟨hvalid, hhdr⟩ := encodeCommand_latch hcnt
  have hframe := h.frame_eq_header_append_payload hvalid
  rw [hlen, hhlen, hhdr] at hframe
  rw [frameNoCk, Memory.length_payload]
  exact hframe

/-- R72, R91: the payload shown is PBUF's of now, the checksum is not. -/
theorem frame_live_of_frameCk_latch (h : e.SameLatch (frameCkCommand d)) : e.frame (6 + d.cnt.toNat) =
    frameCk d.txType (d.pbuf.sum16 d.cnt.toNat) (e.pbuf.payload d.cnt.toNat) := by
  obtain ⟨hhlen, hlen⟩ := frameCkCommand_lengths hcnt
  obtain ⟨hvalid, hhdr⟩ := frameCkCommand_latch hcnt
  have hframe := h.frame_eq_header_append_payload hvalid
  rw [hlen, hhlen, hhdr] at hframe
  rw [frameCk, Memory.length_payload]
  exact hframe

/-- The bytes FRAME shows at 2 and 3 after ENCODE (R27, R61). -/
theorem memRead_header_of_encode :
    (encodeCommand d).memRead 0x202#10 = d.txType ∧
    (encodeCommand d).memRead 0x203#10 = BitVec.ofNat 8 d.cnt.toNat := by
  obtain ⟨hvalid, hhdr⟩ := encodeCommand_latch hcnt
  obtain ⟨hhlen, -⟩ := encodeCommand_lengths hcnt
  have hread {a : Addr} (k : Nat) (ha : a.toNat = 0x200 + k) (hk : k < 4) :=
    Device.memRead_frame_header hvalid ha (by rwa [hhlen])
  rw [hhdr] at hread
  exact ⟨hread 2 rfl (by decide), hread 3 rfl (by decide)⟩

/-- The six header bytes FRAME shows after FRAME_CK (R27, R72). -/
theorem memRead_header_of_frameCk :
    (frameCkCommand d).memRead 0x200#10 = 0xAF#8 ∧ (frameCkCommand d).memRead 0x201#10 = 0xC1#8 ∧
    (frameCkCommand d).memRead 0x202#10 = d.txType ∧
    (frameCkCommand d).memRead 0x203#10 = BitVec.ofNat 8 d.cnt.toNat ∧
    (frameCkCommand d).memRead 0x204#10 = lo8 (d.pbuf.sum16 d.cnt.toNat) ∧
    (frameCkCommand d).memRead 0x205#10 = hi8 (d.pbuf.sum16 d.cnt.toNat) := by
  obtain ⟨hvalid, hhdr⟩ := frameCkCommand_latch hcnt
  obtain ⟨hhlen, -⟩ := frameCkCommand_lengths hcnt
  have hread {a : Addr} (k : Nat) (ha : a.toNat = 0x200 + k) (hk : k < 6) :=
    Device.memRead_frame_header hvalid ha (by rwa [hhlen])
  rw [hhdr] at hread
  exact ⟨hread 0 rfl (by decide), hread 1 rfl (by decide), hread 2 rfl (by decide), hread 3 rfl (by decide),
    hread 4 rfl (by decide), hread 5 rfl (by decide)⟩

end BuiltFrame

/-! ### A header loaded and decoded -/

theorem afterAll_loadRxhdr (h0 h1 h2 h3 h4 h5 : Byte) (is : List Instr) (s : State) (P : State → Prop) :
    AfterAll (loadRxhdr h0 h1 h2 h3 h4 h5 ++ is) s P ↔
      AfterAll is (s.withDev { s.dev with rxhdr := ⟨h0, h1, h2, h3, h4, h5⟩ }) P := by
  simp [loadRxhdr, State.withDev, Device.memWrite_rxhdr, Header.set]

/-- R64 after the six bytes of a header with the checksum marker. -/
theorem afterAll_loadRxhdr_decode (h2 h3 h4 h5 : Byte) (s : State) (P : State → Prop) :
    AfterAll (loadRxhdr 0xAF#8 0xC1#8 h2 h3 h4 h5 ++ [.decode]) s P ↔ P (s.withDev { s.dev with
      rxhdr := ⟨0xAF#8, 0xC1#8, h2, h3, h4, h5⟩
      rxType := h2
      rxLen := h3
      rxCk := le16 h4 h5
      status := { s.dev.status with payloadOk := false, hdrValid := true, err := 0#4 } }) := by
  rw [afterAll_loadRxhdr, afterAll_cons, after_decode, afterAll_nil, decodeHeaderCommand_of_syncAt ⟨rfl, rfl⟩,
    ← le16_eq_ofNat]
  rfl

/-- R70, success, as the host sees it. -/
theorem after_verify_accepts {s : State} (hhdr : s.dev.status.hdrValid = true)
    (hcnt : s.dev.cnt.toNat = s.dev.rxLen.toNat) (hsum : s.dev.pbuf.sum16 s.dev.rxLen.toNat = s.dev.rxCk) :
    After .verify s fun t => t.dev.status.err = 0#4 ∧ t.dev.status.payloadOk = true ∧ t.dev.rxType = s.dev.rxType ∧
      t.dev.rxLen = s.dev.rxLen ∧ t.dev.rxCk = t.dev.ckCalc := by
  rw [after_verify, State.withDev_dev, verifyCommand_of_sum16_eq hhdr hcnt hsum]
  exact ⟨rfl, rfl, rfl, rfl, hsum.symm⟩

end Sys2Proof.Machine
end

section
/-! CERTIFICATES. Laws over lists of transactions: the frame that stays, the round trips, and reads that do not tear. -/

namespace Sys2Proof.Proofs

open Sys2Proof.Machine Sys2Proof.Certificates

/-- Settles O30: a write but to CMD keeps the latch; past the header FRAME shows the byte PBUF then holds. -/
theorem headerLatchedPayloadLive : Obligations.HeaderLatchedPayloadLive := by
  refine fun s v => ⟨fun a ha => ?_, fun j hvalid hhlen hj => ?_⟩
  · have hne : a ≠ cmdAddr := fun h => ha (congrArg BitVec.toNat h)
    obtain ⟨-, hhlenKept, hlenKept, hhdrKept, -⟩ := s.dev.memWrite_keeps_results hne v
    exact (after_hostWr a v).2 ⟨hhdrKept, hhlenKept, hlenKept⟩
  · have hlen := s.dev.txLen.isLt
    have haddr : (BitVec.ofNat 10 (0x200 + s.dev.txHlen.toNat + j)).toNat = 0x200 + s.dev.txHlen.toNat + j := by
      rw [BitVec.toNat_ofNat]
      omega
    have hindex : 0x200 + s.dev.txHlen.toNat + j - 0x200 = s.dev.txHlen.toNat + j := by omega
    rw [afterAll_cons, after_hostWr, afterAll_cons, after_hostRd, afterAll_nil, State.answer_answers,
      State.withDev_answers, State.withDev_dev, s.dev.memWrite_ofNat (by omega), Device.memRead_frame _ (by omega),
      haddr, hindex]
    simp [Device.frameByte, hvalid, hj]

/-- Settles O31: the latch stays, by induction on the later transactions, and FRAME is a view of it and of PBUF. -/
theorem frameStaysUntilTheNextBuild : Obligations.FrameStaysUntilTheNextBuild := by
  refine fun s is hcnt his => ⟨?_, ?_⟩
  · rw [afterAll_cons, after_encode]
    exact (afterAll_latch_kept his _).imp fun t ht => frame_live_of_encode_latch hcnt ht
  · rw [afterAll_cons, after_frameCk]
    exact (afterAll_latch_kept his _).imp fun t ht => frame_live_of_frameCk_latch hcnt ht

/-- Settles O32: the marker tells the header's length, and its byte 3 is the payload's, which is below 256. -/
theorem frameLengthFromItsHeader : Obligations.FrameLengthFromItsHeader := by
  intro t ck p hp
  have hlen : (BitVec.ofNat 8 p.length).toNat = p.length := by
    rw [BitVec.toNat_ofNat]
    omega
  refine ⟨?_, ?_, ?_, ?_⟩
  · simp [frameLength, frameNoCk, hlen, syncNoCk0, syncCk0]
    omega
  · rw [frameNoCk, List.length_append, List.length_cons]; rfl
  · simp [frameLength, frameCk, hlen]
    omega
  · rw [frameCk, List.length_append]; rfl

/-- Settles O51: FRAME[2] and FRAME[3] are the header's type and length, which DECODE latches. -/
theorem encodeDecodeRoundTrip : Obligations.EncodeDecodeRoundTrip := by
  intro s c0 c1 hcnt
  obtain ⟨htype, hlen⟩ := memRead_header_of_encode hcnt
  rw [after_encode, State.withDev_dev, htype, hlen, afterAll_loadRxhdr_decode]
  exact ⟨rfl, rfl, by simp; omega⟩

/-- Settles O52: the header read from FRAME carries the marker, CNT and the sum of the payload VERIFY then sums. -/
theorem generatorAndVerifierAgree : Obligations.GeneratorAndVerifierAgree := by
  intro s hcnt
  obtain ⟨hsync0, hsync1, htype, hlen, hlo, hhi⟩ := memRead_header_of_frameCk hcnt
  obtain ⟨hpbuf, -, hcntKept, -⟩ := frameCkCommand_frame s.dev
  rw [after_frameCk, State.withDev_dev, hsync0, hsync1, htype, hlen, hlo, hhi, afterAll_loadRxhdr_decode, le16_lo8_hi8]
  have hrxLen : (BitVec.ofNat 8 s.dev.cnt.toNat).toNat = s.dev.cnt.toNat := by rw [BitVec.toNat_ofNat]; omega
  have hsum : (frameCkCommand s.dev).pbuf.sum16 (BitVec.ofNat 8 s.dev.cnt.toNat).toNat =
      s.dev.pbuf.sum16 s.dev.cnt.toNat := by rw [hpbuf, hrxLen]
  refine ⟨rfl, ?_⟩
  exact (after_verify_accepts rfl ((congrArg BitVec.toNat hcntKept).trans hrxLen.symm) hsum).imp
    fun v ⟨herr, hok, htypeKept, hlenKept, hck⟩ => ⟨herr, hok, htypeKept, hlenKept ▸ hrxLen, hck⟩

/-- Settles O53: no command is among the transactions, and both halves are of the value the register has throughout. -/
theorem readsWithoutCommandsDoNotTear : Obligations.ReadsWithoutCommandsDoNotTear := by
  refine fun is s his => ⟨(afterAll_nonCommands his s).imp fun t h => h.1, ?_, ?_⟩
  · refine (afterAll_read_nonCommands_read his s _ _).imp fun t ⟨u, mid, ⟨hrxCk, _⟩, hanswers⟩ => ?_
    rw [Device.memRead_rxCkLo, Device.memRead_rxCkHi, hrxCk] at hanswers
    exact ⟨_, _, mid, hanswers, half_toNat _⟩
  · refine (afterAll_read_nonCommands_read his s _ _).imp fun t ⟨u, mid, ⟨_, hckCalc⟩, hanswers⟩ => ?_
    rw [Device.memRead_ckCalcLo, Device.memRead_ckCalcHi, hckCalc] at hanswers
    exact ⟨_, _, mid, hanswers, half_toNat _⟩

end Sys2Proof.Proofs
end

section
/-! SUPPORT. The words of assembler lines, and what lists of read words and of write words do. -/

namespace Sys2Proof.Machine

open Sys2Proof.Certificates

/-! ### The word of a line -/

theorem word_rd {x : AsmAddr} {n : Nat} (h : x.addr = some n) :
    (AsmLine.rd x).word = some (packWord false (BitVec.ofNat 10 n) 0x00#8) := by
  rw [AsmLine.word, h, Option.map_some]

theorem word_wr {x : AsmAddr} {n v : Nat} (h : x.addr = some n) (hv : v ≤ 0xFF) :
    (AsmLine.wr x v).word = some (packWord true (BitVec.ofNat 10 n) (BitVec.ofNat 8 v)) := by
  rw [AsmLine.word, if_pos hv, h, Option.map_some]

theorem word_wr_byte {x : AsmAddr} {n : Nat} (h : x.addr = some n) (b : Byte) :
    (AsmLine.wr x b.toNat).word = some (packWord true (BitVec.ofNat 10 n) b) := by
  rw [word_wr h (Nat.lt_succ_iff.1 b.isLt), BitVec.ofNat_toNat, BitVec.setWidth_eq]

/-- DATA out of range (R57). -/
theorem word_wr_data_refused (x : AsmAddr) {v : Nat} (hv : 0xFF < v) : (AsmLine.wr x v).word = none :=
  if_neg hv.not_ge

/-- ADDR out of range (R57). -/
theorem word_addr_refused {x : AsmAddr} (h : x.addr = none) (v : Nat) :
    (AsmLine.rd x).word = none ∧ (AsmLine.wr x v).word = none := by
  simp [AsmLine.word, h]

/-- A line sees of its ADDR only the number it stands for. -/
theorem word_congr {x y : AsmAddr} (h : x.addr = y.addr) (v : Nat) :
    (AsmLine.rd x).word = (AsmLine.rd y).word ∧ (AsmLine.wr x v).word = (AsmLine.wr y v).word := by
  simp only [AsmLine.word, h, true_and]

theorem number_addr {n : Nat} (h : n ≤ 0x3FF) : (AsmAddr.number n).addr = some n := if_pos h

theorem number_addr_refused {n : Nat} (h : 0x3FF < n) : (AsmAddr.number n).addr = none := if_neg h.not_ge

/-- Every symbol stands for an address of the bus. -/
theorem Symbol.addr_le {x : Symbol} {n : Nat} (h : x.addr = some n) : n ≤ 0x3FF := by
  cases x <;> simp only [addr, Option.ite_none_right_eq_some, Option.some.injEq] at h <;> omega

theorem packWord_ofNat (writes : Bool) {a v : Nat} (ha : a ≤ 0x3FF) (hv : v ≤ 0xFF) :
    packWord writes (BitVec.ofNat 10 a) (BitVec.ofNat 8 v) = BitVec.ofNat 19 (writes.toNat * 2 ^ 18 + a * 256 + v) := by
  apply BitVec.eq_of_toNat_eq
  have hw := writes.toNat_lt
  rw [packWord_toNat, BitVec.toNat_ofNat, BitVec.toNat_ofNat, BitVec.toNat_ofNat]
  omega

/-! ### A program line by line -/

theorem assemble_cons {line : AsmLine} {lines : List AsmLine} {w : BusWord} {ws : List BusWord}
    (hw : line.word = some w) (hws : assemble lines = some ws) : assemble (line :: lines) = some (w :: ws) := by
  rw [assemble, hw, Option.bind_some, hws, Option.map_some]

theorem assemble_map {α : Type} (l : List α) (f : α → AsmLine) (g : α → BusWord)
    (h : ∀ x ∈ l, (f x).word = some (g x)) : assemble (l.map f) = some (l.map g) := by
  induction l with
  | nil => rfl
  | cons x l ih =>
    obtain ⟨hx, hl⟩ := List.forall_mem_cons.1 h
    exact assemble_cons hx (ih hl)

section Words
variable {s : State} {P : State → Prop}

/-- The word of a write does what HOST_WR does. -/
@[simp] theorem after_writeWord (a : Addr) (v : Byte) :
    After (decodeWord (packWord true a v)) s P ↔ P (s.withDev (s.dev.memWrite a v)) := by
  rw [after_congr (exec_decodeWord_writeWord a v), after_hostWr]

/-- Reads answer one after another and change nothing else (R37). -/
theorem afterAll_hostRds (addrs : List Addr) :
    AfterAll (addrs.map .hostRd) s P ↔ P { s with answers := s.answers ++ addrs.map s.dev.memRead } := by
  induction addrs generalizing s with
  | nil => simp
  | cons a addrs ih =>
    rw [List.map_cons, afterAll_cons, after_hostRd, ih]
    simp [State.answer]

end Words

/-! ### The pseudo-instructions with operands -/

/-- The words of `ldpay` from index `i` on put the bytes there and nothing else (R58). -/
theorem ldpayLines_effect (bytes : List Byte) (i : Nat) (hi : i + bytes.length ≤ 256) :
    ∃ ws, assemble (ldpayLines i (bytes.map BitVec.toNat)) = some ws ∧ ∀ s : State,
      AfterAll (ws.map decodeWord) s fun u => u = { s with dev := { s.dev with pbuf := u.dev.pbuf } } ∧
        ∀ j, u.dev.pbuf.read j = if j < i then s.dev.pbuf.read j else (bytes[j - i]?).getD (s.dev.pbuf.read j) := by
  induction bytes generalizing i with
  | nil => exact ⟨[], rfl, fun s => by simp⟩
  | cons b bytes ih =>
    rw [List.length_cons] at hi
    obtain ⟨ws, hws, heffect⟩ := ih (i + 1) (by omega)
    have haddr : (AsmAddr.symbol (.pbuf i)).addr = some i :=
      (if_pos (by omega)).trans (congrArg some (Nat.zero_add i))
    refine ⟨_, assemble_cons (word_wr_byte haddr b) hws, fun s => ?_⟩
    rw [List.map_cons, afterAll_cons, after_writeWord, s.dev.memWrite_ofNat (by omega)]
    refine (heffect _).imp fun u ⟨hu, hread⟩ => ⟨hu, fun j => ?_⟩
    rw [hread, State.withDev_dev, Memory.read_write]
    obtain hlt | rfl | hgt := Nat.lt_trichotomy j i
    · rw [if_pos (by omega), if_neg hlt.ne', if_pos hlt]
    · simp
    · obtain ⟨k, rfl⟩ := Nat.exists_eq_add_of_lt hgt
      have hrest : i + k + 1 - (i + 1) = k := by omega
      have hall : i + k + 1 - i = k + 1 := by omega
      rw [if_neg (by omega), if_neg hgt.ne, if_neg hgt.not_gt, hrest, hall, List.getElem?_cons_succ]

/-- R58. -/
theorem setcnt_words {n : Nat} (hn : n ≤ 65535) : (Pseudo.setcnt n).words =
    some [packWord true 0x104#10 (BitVec.ofNat 8 (n % 256)), packWord true 0x105#10 (BitVec.ofNat 8 (n / 256))] := by
  rw [Pseudo.words, Pseudo.expand, if_pos hn, Option.bind_some]
  exact assemble_cons (word_wr rfl (by omega)) (assemble_cons (word_wr rfl (by omega)) rfl)

/-- R58. -/
theorem ldhdr_words (h0 h1 h2 h3 h4 h5 : Byte) :
    (Pseudo.ldhdr h0.toNat h1.toNat h2.toNat h3.toNat h4.toNat h5.toNat).words =
      some [packWord true 0x110#10 h0, packWord true 0x111#10 h1, packWord true 0x112#10 h2, packWord true 0x113#10 h3,
        packWord true 0x114#10 h4, packWord true 0x115#10 h5] :=
  assemble_cons (word_wr_byte rfl h0) <| assemble_cons (word_wr_byte rfl h1) <|
  assemble_cons (word_wr_byte rfl h2) <| assemble_cons (word_wr_byte rfl h3) <|
  assemble_cons (word_wr_byte rfl h4) <| assemble_cons (word_wr_byte rfl h5) rfl

/-- R58. -/
theorem rdframe_words {m : Nat} (hm : m ≤ 512) : (Pseudo.rdframe m).words =
    some ((List.range m).map fun i => packWord false (BitVec.ofNat 10 (0x200 + i)) 0x00#8) := by
  rw [Pseudo.words, Pseudo.expand, if_pos hm, Option.bind_some]
  refine assemble_map _ _ _ fun i hi => word_rd (if_pos ?_)
  have hlt := List.mem_range.1 hi
  omega

/-- The answers to reads of FRAME[0..m-1] are its bytes (R27). -/
theorem memRead_frame_range (d : Device) {m : Nat} (hm : m ≤ 512) :
    (List.range m).map (fun i => d.memRead (BitVec.ofNat 10 (0x200 + i))) = d.frame m := by
  refine List.map_congr_left fun i hi => ?_
  have hlt := List.mem_range.1 hi
  have haddr : (BitVec.ofNat 10 (0x200 + i)).toNat = 0x200 + i := by rw [BitVec.toNat_ofNat]; omega
  rw [d.memRead_frame (by omega), haddr, Nat.add_sub_cancel_left]

end Sys2Proof.Machine
end

section
/-! CERTIFICATES. The assembler: its lines and its pseudo-instructions. -/

namespace Sys2Proof.Proofs

open Sys2Proof.Machine Sys2Proof.Certificates

/-- Settles O57: a line's word is its packed fields; a symbol is the number it stands for. -/
theorem assemblerLines : Obligations.AssemblerLines := by
  refine ⟨fun a v ha hv => ⟨?_, ?_⟩, fun a v ha => word_addr_refused (number_addr_refused ha) v,
    fun x v hv => word_wr_data_refused x hv, fun x n v h => ⟨x.addr_le h, ?_⟩, fun i => ⟨?_, rfl, rfl, rfl⟩, rfl⟩
  · rw [word_rd (number_addr ha), packWord_ofNat false ha (Nat.zero_le _)]
    simp
  · rw [word_wr (number_addr ha) hv, packWord_ofNat true ha hv]
    rfl
  · exact word_congr (x := .symbol x) (y := .number n) (h.trans (number_addr (x.addr_le h)).symm) v
  · rw [Symbol.addr, Nat.zero_add]

/-- Settles O58: each line is one host write or read; `ldpay` by induction on its bytes, `rdframe` line by line. -/
theorem pseudoInstructionEffects : Obligations.PseudoInstructionEffects := by
  intro s
  refine ⟨rfl, fun t ht => ?_, fun n hn => ?_, fun h0 h1 h2 h3 h4 h5 => ?_, fun bytes hbytes => ?_, fun m hm => ?_⟩
  · refine ⟨_, assemble_cons (word_wr rfl ht) rfl, ?_⟩
    rw [List.map_cons, afterAll_cons, after_writeWord]
    exact afterAll_nil.2 rfl
  · refine ⟨_, setcnt_words hn, ?_⟩
    have hcnt : le16 (BitVec.ofNat 8 (n % 256)) (BitVec.ofNat 8 (n / 256)) = BitVec.ofNat 16 n := by
      apply BitVec.eq_of_toNat_eq
      rw [le16_toNat, BitVec.toNat_ofNat, BitVec.toNat_ofNat, BitVec.toNat_ofNat]
      omega
    simp [State.withDev, hcnt]
  · refine ⟨_, ldhdr_words h0 h1 h2 h3 h4 h5, ?_⟩
    simp [State.withDev, Device.memWrite_rxhdr, Header.set]
  · obtain ⟨ws, hws, heffect⟩ := ldpayLines_effect bytes 0 (by omega)
    refine ⟨ws, ?_, ?_⟩
    · rw [Pseudo.words, Pseudo.expand, if_pos (by rwa [List.length_map]), Option.bind_some, hws]
    · simpa using heffect s
  · refine ⟨_, rdframe_words hm, ?_⟩
    have hdecode : ((List.range m).map fun i => packWord false (BitVec.ofNat 10 (0x200 + i)) 0x00#8).map decodeWord =
        ((List.range m).map fun i => BitVec.ofNat 10 (0x200 + i)).map .hostRd := by
      simp only [List.map_map, Function.comp_def, decodeWord_readWord]
    rw [hdecode, afterAll_hostRds, List.map_map, ← memRead_frame_range _ hm]
    rfl

end Sys2Proof.Proofs
end
